-- ==== Sys2Proof/Word.lean ====
section
/-! DEFINITION. The words of the block and its four-lane vectors (spec/00_scope.md R9: lane values are unsigned,
`A[i]` is lane i of a four-lane vector, i in 0..3). -/

namespace Sys2Proof

/-- A byte of the entropy port or of the adapter's buffer. -/
abbrev Byte := BitVec 8

/-- `u32` of R9: an OutputWord, a payload word, a response word, a half of the multiplier. -/
abbrev Word32 := BitVec 32

/-- `u64` of R9: a state lane, an increment lane, a product. -/
abbrev Word64 := BitVec 64

/-- A four-lane vector `A[0..3]` (R6 `LANES` = 4, R9). -/
structure Lanes (α : Type) where
  l0 : α
  l1 : α
  l2 : α
  l3 : α
deriving DecidableEq, Repr

namespace Lanes

/-- `A[i]`, i in 0..3 (R9). -/
def get {α : Type} (v : Lanes α) (i : Fin 4) : α :=
  match i with
  | 0 => v.l0
  | 1 => v.l1
  | 2 => v.l2
  | 3 => v.l3

/-- The vector whose lane i is `f i`: the `for i in 0..3` of the spec's pseudocode. -/
def ofFn {α : Type} (f : Fin 4 → α) : Lanes α := ⟨f 0, f 1, f 2, f 3⟩

/-- One value in all four lanes, the `[v]*4` of R69. -/
def broadcast {α : Type} (a : α) : Lanes α := ⟨a, a, a, a⟩

/-- The lanes in order, lane 0 first. -/
def toList {α : Type} (v : Lanes α) : List α := [v.l0, v.l1, v.l2, v.l3]

end Lanes

end Sys2Proof
end

