-- ==== Sys2Proof/Config.lean ====
section
/-! DEFINITION. The fixed parameters of the hardware (spec/00_scope.md R6) and the free values: constants without a
body for what the spec leaves open (R7, spec/92_eei_decisions.md D7, D9, D12). -/

namespace Sys2Proof.Config

/-- `MUL` (M) of R6, the multiplier of every lane. UNVERIFIED against the original code (log 19). -/
def mul : Word64 := 6364136223846793005#64

/-- `MUL_LO` of R6: M[31:0]. -/
def mulLo : Word32 := 0x4C957F2D#32

/-- `MUL_HI` of R6: M[63:32]. -/
def mulHi : Word32 := 0x5851F42D#32

/-- `XS_SHIFT1` of R6. -/
def xsShift1 : Nat := 18

/-- `XS_SHIFT2` of R6. -/
def xsShift2 : Nat := 27

/-- `ROT_SHIFT` of R6: the rotation amount is state[63:59]. -/
def rotShift : Nat := 59

/-- `ENTROPY_BLOCK` of R6: bytes per entropy request. -/
def entropyBlock : Nat := 32

/-- `STEP_OUT_BYTES` of R6: bytes of one STEP result, for the adapter. -/
def stepOutBytes : Nat := 16

/-- `rotr_oob` of R7 and R64: the result lane of ROTR for an amount of 32 or more, a draw under no law.
The n-th draw of a run is this constant at n. Free value (log 7). -/
opaque rotrOob : Nat → Word32

/-- `EntropyOracle` of R7 and R76: the source's answer to its n-th request where State lists no answer,
the bytes or `none` for `Fail`. Free value (log 4). -/
opaque entropyOracle : Nat → Option (List Byte)

/-- What a 64-bit register holds that the spec calls unspecified (R27, R106). Free value (log 8). -/
opaque unspecified64 : Nat → Word64

/-- What a 32-bit register holds that the spec calls unspecified (R27, R106). Free value (log 8). -/
opaque unspecified32 : Nat → Word32

end Sys2Proof.Config
end

