-- ==== Sys2Proof/Syntax.lean ====
section
/-! DEFINITION. The command transaction as the host sends it (spec/30_encoding.md R43) and the five commands of
spec/opcode_table.json (R45), with the operands the payload carries (R46). -/

namespace Sys2Proof

/-- R43: one transaction `(C, P)`, a 32-bit command word and n ≥ 0 payload words; n is part of the transaction. -/
structure Transaction where
  command : Word32
  payload : List Word32
deriving DecidableEq, Repr

/-- R45: the commands. Every operand arrives whole in the payload (R43, R48: no immediates, no register numbers). -/
inductive Instr where
  /-- WMUL, spec/40_wide_mul.md R60: X[0..3] and Y[0..3]. -/
  | wmul (x y : Lanes Word64)
  /-- ROTR, spec/41_rotate.md R65: V[0..3] and the amounts R[0..3]. -/
  | rotr (v r : Lanes Word32)
  /-- SEED, spec/43_seeding.md R77: the `state` argument S[0..3] and the `increment` argument I[0..3]. -/
  | seed (state increment : Lanes Word64)
  /-- SEED_ENTROPY, spec/43_seeding.md R79: no payload. -/
  | seedEntropy
  /-- STEP, spec/42_state_engine.md R69: no payload. -/
  | step
deriving DecidableEq, Repr

end Sys2Proof
end

