-- ==== Sys2Proof/WellFormed.lean ====
section
/-! DEFINITION. When a transaction is a command: the three checks of spec/30_encoding.md R49, each written from the
format R43 and the opcode map R45, apart from the decoder; and when an instruction is well formed. -/

namespace Sys2Proof

namespace Transaction

/-- R43, R50: `RSVD` = C[31:8] must be 0. -/
def rsvdZero (t : Transaction) : Bool := decide (t.command.toNat < 256)

/-- R45: how many payload words each assigned OPC takes, `none` for a reserved one. -/
def lengthOfOpc (opc : Nat) : Option Nat :=
  [(0x01, 16), (0x02, 8), (0x03, 16), (0x04, 0), (0x05, 0)].lookup opc

/-- R45, R50: `OPC` = C[7:0] is one of 0x01 to 0x05. -/
def opcAssigned (t : Transaction) : Bool := (lengthOfOpc (t.command.toNat % 256)).isSome

/-- R49: the payload has the length its OPC fixes. -/
def lengthRight (t : Transaction) : Bool := lengthOfOpc (t.command.toNat % 256) == some t.payload.length

/-- R49: the transaction passes all three checks, so it is performed and not answered ERR_ILLEGAL by decode. -/
def wellFormed (t : Transaction) : Bool := t.rsvdZero && t.opcAssigned && t.lengthRight

end Transaction

/-- Every instruction is well formed: R48 takes each payload word as it is, R17 and R77 make every seed legal, and
R64 gives every rotation amount an effect. -/
def Instr.wellFormed (i : Instr) : Bool :=
  match i with
  | .wmul _ _ => true
  | .rotr _ _ => true
  | .seed _ _ => true
  | .seedEntropy => true
  | .step => true

end Sys2Proof
end

