-- ==== Sys2Proof/Decode.lean ====
section
/-! DEFINITION. Decoding a transaction (spec/30_encoding.md R43 to R51), total and rejecting by name, then encoding
(R46, R53, R55), and the opcode table's numbering of an instruction's bits. -/

namespace Sys2Proof

/-! ### Bit fields and byte order -/

/-- `v[31:0]` (R9). -/
def lo32 (v : Word64) : Word32 := v.extractLsb' 0 32

/-- `v[63:32]` (R9). -/
def hi32 (v : Word64) : Word32 := v.extractLsb' 32 32

/-- `{hi, lo}` (R9): a 64-bit value from its two 32-bit words (spec/20_memory.md R32). -/
def u64 (hi lo : Word32) : Word64 := hi ++ lo

/-- Payload word P[k]. Decode reads it only below the payload's length, which R49 has checked. -/
def payloadWord (p : List Word32) (k : Nat) : Word32 := p.getD k 0

/-- Four 64-bit operands from P[k..k+7]: lane i is {P[k+2i+1], P[k+2i]} (R46, R48). -/
def lanes64At (p : List Word32) (k : Nat) : Lanes Word64 :=
  .ofFn fun i => u64 (payloadWord p (k + 2 * i.val + 1)) (payloadWord p (k + 2 * i.val))

/-- Four 32-bit operands from P[k..k+3] (R46). -/
def lanes32At (p : List Word32) (k : Nat) : Lanes Word32 :=
  .ofFn fun i => payloadWord p (k + i.val)

/-- The eight words of a 64-bit vector, low word first (R32, R46, R47). -/
def words64 (v : Lanes Word64) : List Word32 :=
  [lo32 v.l0, hi32 v.l0, lo32 v.l1, hi32 v.l1, lo32 v.l2, hi32 v.l2, lo32 v.l3, hi32 v.l3]

/-- The four words of a 32-bit vector, lane 0 first (R46, R47). -/
def words32 (v : Lanes Word32) : List Word32 := v.toList

/-! ### The opcode map -/

/-- The assigned opcodes (R45). -/
inductive Opcode where
  | wmul
  | rotr
  | seed
  | seedEntropy
  | step
deriving DecidableEq, Repr

/-- R45: the opcode of an OPC value; `none` for 0x00 and 0x06 to 0xFF, which are reserved (R50). -/
def opcodeOf (opc : Nat) : Option Opcode :=
  match opc with
  | 0x01 => some .wmul
  | 0x02 => some .rotr
  | 0x03 => some .seed
  | 0x04 => some .seedEntropy
  | 0x05 => some .step
  | _ => none

/-- R45, column "payload words n". -/
def payloadWords (o : Opcode) : Nat :=
  match o with
  | .wmul => 16
  | .rotr => 8
  | .seed => 16
  | .seedEntropy => 0
  | .step => 0

/-- R45, column "response words on OK". -/
def responseWords (o : Opcode) : Nat :=
  match o with
  | .wmul => 8
  | .rotr => 4
  | .seed => 0
  | .seedEntropy => 0
  | .step => 4

/-- R45: "The full command words". RSVD is 0. -/
def commandWord (o : Opcode) : Word32 :=
  match o with
  | .wmul => 0x00000001#32
  | .rotr => 0x00000002#32
  | .seed => 0x00000003#32
  | .seedEntropy => 0x00000004#32
  | .step => 0x00000005#32

/-- The row of R45 an instruction belongs to. -/
def opcodeOfInstr (i : Instr) : Opcode :=
  match i with
  | .wmul _ _ => .wmul
  | .rotr _ _ => .rotr
  | .seed _ _ => .seed
  | .seedEntropy => .seedEntropy
  | .step => .step

/-! ### Decode -/

/-- Why decode rejects a transaction: the three checks of R49, in its order. All give ERR_ILLEGAL. -/
inductive Illegal where
  /-- C[31:8] ≠ 0. -/
  | reservedBits
  /-- C[7:0] is not one of 0x01 to 0x05. -/
  | reservedOpcode
  /-- The payload's length is not the opcode's. -/
  | wrongLength
deriving DecidableEq, Repr

/-- `OPC` = C[7:0] (R43). -/
def opcField (c : Word32) : Nat := (c.extractLsb' 0 8).toNat

/-- `RSVD` = C[31:8] (R43). -/
def rsvdField (c : Word32) : Nat := (c.extractLsb' 8 24).toNat

/-- R46: the operands of an opcode, from a payload of the right length. -/
def operandsOf (o : Opcode) (p : List Word32) : Instr :=
  match o with
  | .wmul => .wmul (lanes64At p 0) (lanes64At p 8)
  | .rotr => .rotr (lanes32At p 0) (lanes32At p 4)
  | .seed => .seed (lanes64At p 0) (lanes64At p 8)
  | .seedEntropy => .seedEntropy
  | .step => .step

/-- R49: the decoder, total on every transaction. -/
def decode (t : Transaction) : Except Illegal Instr :=
  if rsvdField t.command ≠ 0 then .error .reservedBits
  else
    match opcodeOf (opcField t.command) with
    | none => .error .reservedOpcode
    | some o =>
      if t.payload.length ≠ payloadWords o then .error .wrongLength
      else .ok (operandsOf o t.payload)

/-! ### Encode -/

/-- R46: the payload an instruction's operands travel in. -/
def payloadOf (i : Instr) : List Word32 :=
  match i with
  | .wmul x y => words64 x ++ words64 y
  | .rotr v r => words32 v ++ words32 r
  | .seed s inc => words64 s ++ words64 inc
  | .seedEntropy => []
  | .step => []

/-- R53, R55: the transaction of an instruction. -/
def encode (i : Instr) : Transaction := ⟨commandWord (opcodeOfInstr i), payloadOf i⟩

/-! ### The opcode table's numbering -/

/-- The transaction whose bits are w: bit 0 is the least significant bit of the command word, and the payload words
count on from it, as many as the opcode takes. The table gives the command word's 32 bits only; every bit at nbits or
above is 0 (log 10). -/
def tableTransaction (nbits w : Nat) : Transaction :=
  let bits := w % 2 ^ nbits
  let c : Word32 := BitVec.ofNat 32 bits
  let n := match opcodeOf (opcField c) with
    | some o => payloadWords o
    | none => 0
  ⟨c, (List.range n).map fun k => BitVec.ofNat 32 (bits >>> (32 * (k + 1)))⟩

/-- What the decoder reads from an instruction whose bits are w, numbered as spec/opcode_table.json numbers them. -/
def decodeTableWord (nbits w : Nat) : Option Instr :=
  match decode (tableTransaction nbits w) with
  | .ok i => some i
  | .error _ => none

end Sys2Proof
end

