-- ==== Sys2Proof/Machine/State.lean ====
section
/-! DEFINITION. The state of the block (spec/10_state.md R16) and of its three ports (spec/20_memory.md R28), its
reset (R27, spec/70_reset_and_hazards.md R106), and the reasons a step can stop. -/

namespace Sys2Proof.Machine

/-- The status codes of spec/60_exceptions.md R93, which stand in place of traps (R92). -/
inductive Status where
  | ok
  | errIllegal
  | errUnseeded
  | errEntropy
deriving DecidableEq, Repr

/-- R44: a response `(status, D)`. -/
structure Response where
  status : Status
  data : List Word32
deriving DecidableEq, Repr

/-- What the entropy source does with one request (spec/43_seeding.md R76; spec/70_reset_and_hazards.md R111). -/
inductive EntropyAnswer where
  /-- It hands over bytes; anything but exactly 32 of them counts as Fail (R76, log 5). -/
  | bytes (b : List Byte)
  /-- It answers `Fail`. -/
  | fail
  /-- It never answers (R111, spec/93_implementation_defined.md U5). -/
  | silent
deriving DecidableEq, Repr

/-- What can arrive at the block from the host. -/
inductive PortEvent where
  /-- A command transaction on the command port (R43). -/
  | command (t : Transaction)
  /-- Reset, between commands (R106). -/
  | reset
  /-- Reset while the block works on `t`, which had made `requests` entropy requests (R106, U8, log 9). -/
  | resetDuring (t : Transaction) (requests : Nat)
deriving DecidableEq, Repr

/-- The machine: the registers S0 to S4 of R16, then the ports, then the model's counter of free values. -/
structure State where
  /-- S0 `STATE[0..3]` (R17). -/
  state : Lanes Word64
  /-- S1 `INC[0..3]` (R18). -/
  inc : Lanes Word64
  /-- S2 `MUL_LO` (R19). -/
  mulLo : Word32
  /-- S3 `MUL_HI` (R19). -/
  mulHi : Word32
  /-- S4 `SEEDED` (R20). -/
  seeded : Bool
  /-- What the host has issued and the block has not taken, oldest first (R38, log 1). -/
  pending : List PortEvent
  /-- The responses given, oldest first (R44, R112, log 3). -/
  responses : List Response
  /-- The entropy source's answers to the coming requests, oldest first (R76, log 4). -/
  entropyIn : List EntropyAnswer
  /-- How many entropy requests have been made (log 4, 18). -/
  entropyRequests : Nat
  /-- How many free values have been drawn: the model's own field (log 7, 18). -/
  draws : Nat
deriving DecidableEq, Repr

/-- Why the machine stops. -/
inductive Fault where
  /-- Raised by SEED_ENTROPY when the entropy source never answers a request it makes: "a source that never answers
  leaves SEED_ENTROPY waiting, which the model represents as a stuck command" (R111, U5). Safe (log 6). -/
  | entropySilent
deriving DecidableEq, Repr

/-- Why the model gives an instruction no meaning. -/
inductive Refusal where
  /-- Raised by an arm of `exec` whose instruction has no meaning yet; no arm raises it now. Safe. -/
  | notModelled (mnemonic : String)
deriving DecidableEq, Repr

/-- Four 64-bit registers holding the free values n to n+3 (R27 "unspecified"). -/
def unspecifiedLanes (n : Nat) : Lanes Word64 := .ofFn fun i => Config.unspecified64 (n + i.val)

/-- The block right after reset (R27, R106): SEEDED = 0, the other registers unspecified (DESIGN CHOICE: free values
without a body, log 8), nothing issued (R107), no response, no entropy request made. -/
def State.reset : State where
  state := unspecifiedLanes 0
  inc := unspecifiedLanes 4
  mulLo := Config.unspecified32 0
  mulHi := Config.unspecified32 1
  seeded := false
  pending := []
  responses := []
  entropyIn := []
  entropyRequests := 0
  draws := 8

end Sys2Proof.Machine
end

