-- ==== Sys2Proof/Machine/Flags.lean ====
section
/-! DEFINITION. The one flag, SEEDED (spec/10_state.md R20). No command computes any other flag (R23). -/

namespace Sys2Proof.Machine

/-- SEEDED <- 1, by a successful SEED or SEED_ENTROPY (R20). -/
def setSeeded (s : State) : State := { s with seeded := true }

/-- SEEDED <- 0, by a failed SEED_ENTROPY and by reset (R20). -/
def clearSeeded (s : State) : State := { s with seeded := false }

end Sys2Proof.Machine
end

