-- ==== Sys2Proof/Machine/Operands.lean ====
section
/-! DEFINITION. The mixed-width views of spec/20_memory.md R31 to R33 (R34: there are no others), an entropy answer as
a block (spec/43_seeding.md R76), and a status as a word (spec/30_encoding.md R44). Payload words to operands is
`operandsOf` in Decode.lean. -/

namespace Sys2Proof.Machine

/-- `le64(b[k..k+7])` of spec/00_scope.md R11: byte b[k] is bits 7:0, byte b[k+7] is bits 63:56. -/
def le64 (b : List Byte) (k : Nat) : Word64 :=
  b.getD (k + 7) 0 ++ b.getD (k + 6) 0 ++ b.getD (k + 5) 0 ++ b.getD (k + 4) 0 ++
    b.getD (k + 3) 0 ++ b.getD (k + 2) 0 ++ b.getD (k + 1) 0 ++ b.getD k 0

/-- R31: lane i of a 32-byte entropy block is `le64(b[8i..8i+7])`. -/
def lanesOfBlock (b : List Byte) : Lanes Word64 := .ofFn fun i => le64 b (8 * i.val)

/-- R76: an answer is `Bytes` when it has exactly 32 bytes; a short one is `Fail` (a longer one too, log 5). -/
def block? (a : EntropyAnswer) : Option (List Byte) :=
  match a with
  | .bytes b => if b.length = Config.entropyBlock then some b else none
  | .fail => none
  | .silent => none

/-- The four bytes of an output word, `out[j][8k+7:8k]` for k in 0..3 (R33). -/
def bytes4 (w : Word32) : List Byte :=
  [w.extractLsb' 0 8, w.extractLsb' 8 8, w.extractLsb' 16 8, w.extractLsb' 24 8]

/-- R33: `bytes16(out)`, lane 0 first, each lane little-endian; `out` is the data of a STEP response. -/
def bytes16 (out : List Word32) : List Byte :=
  bytes4 (out.getD 0 0) ++ bytes4 (out.getD 1 0) ++ bytes4 (out.getD 2 0) ++ bytes4 (out.getD 3 0)

/-- R33: `u64pair(out)`, {out[1], out[0]} and then {out[3], out[2]}. -/
def u64pair (out : List Word32) : Word64 × Word64 :=
  (u64 (out.getD 1 0) (out.getD 0 0), u64 (out.getD 3 0) (out.getD 2 0))

/-- R93: the status codes. -/
def statusCode (st : Status) : BitVec 8 :=
  match st with
  | .ok => 0x00#8
  | .errIllegal => 0x01#8
  | .errUnseeded => 0x02#8
  | .errEntropy => 0x03#8

/-- R44: the status word, bits 7:0 the code and bits 31:8 = 0. -/
def statusWord (st : Status) : Word32 := (statusCode st).setWidth 32

end Sys2Proof.Machine
end

