-- ==== Sys2Proof/Machine/Ops.lean ====
section
/-! DEFINITION. The operations the commands share: taking what the host issued, responding, error entry
(spec/60_exceptions.md R92, R96), the entropy port (spec/43_seeding.md R76), construction (R77) and reset
(spec/70_reset_and_hazards.md R106). -/

namespace Sys2Proof.Machine

/-! ### The command and response ports -/

/-- The oldest event the host has issued, and the state with that event taken (spec/20_memory.md R38). -/
def takeEvent (s : State) : Option (PortEvent × State) :=
  match s.pending with
  | [] => none
  | e :: rest => some (e, { s with pending := rest })

/-- The host issues one event ahead of what is still pending. -/
def issueEvent (e : PortEvent) (s : State) : State := { s with pending := e :: s.pending }

/-- `respond(status, data)` of spec/00_scope.md R11: exactly one response ends a command (R44). -/
def respond (st : Status) (data : List Word32) (s : State) : State :=
  { s with responses := s.responses ++ [⟨st, data⟩] }

/-- Error entry in place of trap entry (R96): "A command that returns an error saves nothing and changes no mode, mask
or stack." The status is the only report (R92, R93), and there is nothing to return from (R97). -/
def respondError (st : Status) (s : State) : State := respond st [] s

/-- R49: a transaction that fails decode is answered ERR_ILLEGAL and has no other effect. -/
def illegalCommand (s : State) : State := respondError .errIllegal s

/-! ### The entropy port -/

/-- `EntropyRead(32)` (R11, R76): the block answered, `none` for `Fail`, and the state after the request. The answer is
the next one State lists, else the oracle's (log 4). -/
def entropyRead (s : State) : Option (List Byte) × State :=
  match s.entropyIn with
  | a :: rest => (block? a, { s with entropyIn := rest, entropyRequests := s.entropyRequests + 1 })
  | [] =>
    ((Config.entropyOracle s.entropyRequests).bind fun b => block? (.bytes b),
      { s with entropyRequests := s.entropyRequests + 1 })

/-- A request of SEED_ENTROPY meets a source that never answers (R111, U5): the first one, or the second one when the
first was answered with a block (R79: a Fail ends the command with no second request). -/
def entropyWaits (s : State) : Bool :=
  match s.entropyIn with
  | .silent :: _ => true
  | a :: .silent :: _ => (block? a).isSome
  | _ => false

/-- The entropy requests a command can make: at most two, and only SEED_ENTROPY makes any (R76, R111). -/
def requestLimit (t : Transaction) : Nat :=
  match decode t with
  | .ok .seedEntropy => 2
  | _ => 0

/-! ### Construction and reset -/

/-- The writes of SEED (R77): STATE[i] <- S[i], INC[i] <- I[i] | 1, MUL_LO and MUL_HI <- the halves of M, SEEDED <- 1. -/
def construct (st increment : Lanes Word64) (s : State) : State :=
  setSeeded
    { s with
      state := st
      inc := .ofFn fun i => increment.get i ||| 1#64
      mulLo := Config.mulLo
      mulHi := Config.mulHi }

/-- Reset (R106): SEEDED <- 0 and the other registers unspecified (free values never drawn before, log 9). No response
is produced, and the ports are not the block's state. -/
def applyReset (s : State) : State :=
  clearSeeded
    { s with
      state := unspecifiedLanes s.draws
      inc := unspecifiedLanes (s.draws + 4)
      mulLo := Config.unspecified32 s.draws
      mulHi := Config.unspecified32 (s.draws + 1)
      draws := s.draws + 8 }

/-- Reset in the middle of a command (R106, U8): "A command interrupted by reset has no effect, and neither do the bytes
of any entropy answer it had received." The source has used up its answers to the requests made (R36, log 9). -/
def interruptByReset (t : Transaction) (requests : Nat) (s : State) : State :=
  let n := min requests (requestLimit t)
  applyReset { s with entropyIn := s.entropyIn.drop n, entropyRequests := s.entropyRequests + n }

/-- With nothing issued the block waits (R107), its registers unchanged (spec/60_exceptions.md R105). -/
def idle (s : State) : State := s

/-! ### Procedures over outcomes -/

/-- Goes on with f from a next result; a stop stays that stop. -/
def andThen {α β : Type} (o : Host.Outcome α Fault Refusal) (f : α → Host.Outcome β Fault Refusal) :
    Host.Outcome β Fault Refusal :=
  match o with
  | .next a => f a
  | .fault r => .fault r
  | .refused r => .refused r

end Sys2Proof.Machine
end

