-- ==== Sys2Proof/Machine/Rotate.lean ====
section
/-! DEFINITION. `variable_rotate_32_emulator` (spec/41_rotate.md) and the ROTR command. -/

namespace Sys2Proof.Machine

/-- One lane of R61, for an amount in 0..31: `(v << (32 - r)) | (v >> r)`, where a left shift by 32 gives 0 (R62). -/
def rotr32v (v : Word32) (r : Nat) : Word32 :=
  let lsh := 32 - r
  let left := if lsh ≥ 32 then 0#32 else v <<< lsh
  left ||| (v >>> r)

/-- One lane of R65: the rotate for an amount of at most 31, else the draw `rotr_oob` (R64, log 7). -/
def rotrLane (v r : Word32) (draw : Nat) : Word32 :=
  if r.toNat ≤ 31 then rotr32v v r.toNat else Config.rotrOob draw

/-- W[0..3] of R65, with the draws from n on: lane i would use draw n + i. -/
def rotrLanes (v r : Lanes Word32) (n : Nat) : Lanes Word32 :=
  .ofFn fun i => rotrLane (v.get i) (r.get i) (n + i.val)

/-- How far ROTR moves the counter of free values: not at all when every amount is in 0..31 (log 7). -/
def rotrDraws (r : Lanes Word32) : Nat :=
  if r.toList.all fun a => decide (a.toNat ≤ 31) then 0 else 4

/-- ROTR (R65): no register is read or written. -/
def execRotr (v r : Lanes Word32) (s : State) : Host.Outcome State Fault Refusal :=
  .next (respond .ok (words32 (rotrLanes v r s.draws)) { s with draws := s.draws + rotrDraws r })

end Sys2Proof.Machine
end

