-- ==== Sys2Proof/Machine/Seeding.lean ====
section
/-! DEFINITION. `entropy_seeder` (spec/43_seeding.md): the SEED and SEED_ENTROPY commands. -/

namespace Sys2Proof.Machine

/-- SEED (R77). -/
def execSeed (st increment : Lanes Word64) (s : State) : Host.Outcome State Fault Refusal :=
  .next (respond .ok [] (construct st increment s))

/-- The failure of R79 and R80: SEEDED <- 0 and ERR_ENTROPY; STATE, INC, MUL_LO and MUL_HI are not written (log 13). -/
def seedEntropyFails (s : State) : State := respondError .errEntropy (clearSeeded s)

/-- SEED_ENTROPY with a source that answers (R79): the first block is for `state`, the second for `increment`; no second
request after a Fail; the registers are written only at the end. -/
def seedEntropy (s : State) : State :=
  let first := entropyRead s
  match first.1 with
  | none => seedEntropyFails first.2
  | some a =>
    let second := entropyRead first.2
    match second.1 with
    | none => seedEntropyFails second.2
    | some b => respond .ok [] (construct (lanesOfBlock a) (lanesOfBlock b) second.2)

/-- SEED_ENTROPY (R79), stuck when the source never answers a request it makes (R111, log 6). -/
def execSeedEntropy (s : State) : Host.Outcome State Fault Refusal :=
  if entropyWaits s then .fault .entropySilent else .next (seedEntropy s)

end Sys2Proof.Machine
end

