-- ==== Sys2Proof/Machine/WideMul.lean ====
section
/-! DEFINITION. `wide_mul_64_emulator` (spec/40_wide_mul.md) and the WMUL command. -/

namespace Sys2Proof.Machine

/-- `mul32x32(a, b)` of spec/00_scope.md R10: the exact 64-bit product of two 32-bit values. -/
def mul32x32 (a b : Word32) : Word64 := a.setWidth 64 * b.setWidth 64

/-- One lane of R56: three of the four 32x32 partial products; x_hi * yhi reaches only bits 64 and above. -/
def wmulLane (x : Word64) (ylo yhi : Word32) : Word64 :=
  let ppHl := mul32x32 (hi32 x) ylo
  let ppLh := mul32x32 (lo32 x) yhi
  let ppLl := mul32x32 (lo32 x) ylo
  (ppHl <<< 32) + (ppLh <<< 32) + ppLl

/-- `wmul` of R56, lane by lane. -/
def wmul (x : Lanes Word64) (ylo yhi : Lanes Word32) : Lanes Word64 :=
  .ofFn fun i => wmulLane (x.get i) (ylo.get i) (yhi.get i)

/-- WMUL (R60): YLO[i] = Y[i][31:0], YHI[i] = Y[i][63:32]; no register is read or written. -/
def execWmul (x y : Lanes Word64) (s : State) : Host.Outcome State Fault Refusal :=
  .next (respond .ok (words64 (wmul x (.ofFn fun i => lo32 (y.get i)) (.ofFn fun i => hi32 (y.get i)))) s)

end Sys2Proof.Machine
end

