-- ==== Sys2Proof/Machine/StateEngine.lean ====
section
/-! DEFINITION. `pcg_state_engine_4lane` (spec/42_state_engine.md): the output permutation and the STEP command. -/

namespace Sys2Proof.Machine

/-- `((old >> 18) ^ old) >> 27` of R66, a 64-bit value. -/
def xorshifted (old : Word64) : Word64 :=
  ((old >>> Config.xsShift1) ^^^ old) >>> Config.xsShift2

/-- `old >> 59` of R66: the rotation amount, in 0..31. -/
def rotAmount (old : Word64) : Nat := (old >>> Config.rotShift).toNat

/-- `perm(old)` of R66: truncated to 32 bits first, then the 32-bit rotate (spec/90_conflicts.md C6). -/
def perm (old : Word64) : Word32 := rotr32v ((xorshifted old).setWidth 32) (rotAmount old)

/-- The outputs O[0..3] of a STEP, from the snapshot (R68, R70). -/
def stepOutputs (old : Lanes Word64) : Lanes Word32 := .ofFn fun i => perm (old.get i)

/-- The new STATE[0..3] of a STEP: prod[i] + INC[i], modulo 2^64 (R69). -/
def stepState (s : State) : Lanes Word64 :=
  let prod := wmul s.state (.broadcast s.mulLo) (.broadcast s.mulHi)
  .ofFn fun i => prod.get i + s.inc.get i

/-- STEP (R69). -/
def execStep (s : State) : Host.Outcome State Fault Refusal :=
  if s.seeded = false then .next (respondError .errUnseeded s)
  else .next (respond .ok (words32 (stepOutputs s.state)) { s with state := stepState s })

end Sys2Proof.Machine
end

