-- ==== Sys2Proof/Machine/Dispatch.lean ====
section
/-! DEFINITION. One arm per command of spec/30_encoding.md R45. -/

namespace Sys2Proof.Machine

/-- The effect of one command (spec/00_scope.md R15). -/
def exec (i : Instr) (s : State) : Host.Outcome State Fault Refusal :=
  match i with
  | .wmul x y => Sys2Proof.Machine.execWmul x y s
  | .rotr v r => Sys2Proof.Machine.execRotr v r s
  | .seed st increment => Sys2Proof.Machine.execSeed st increment s
  | .seedEntropy => Sys2Proof.Machine.execSeedEntropy s
  | .step => Sys2Proof.Machine.execStep s

end Sys2Proof.Machine
end

