-- ==== Sys2Proof/Machine/Step.lean ====
section
/-! DEFINITION. One step of the machine: the oldest port event is taken and answered (spec/20_memory.md R37, R38). -/

namespace Sys2Proof.Machine

/-- A command is decoded and performed, or answered ERR_ILLEGAL (spec/30_encoding.md R49); a reset resets
(spec/70_reset_and_hazards.md R106); with nothing issued the block waits (R107). -/
def step (s : State) : Host.Outcome State Fault Refusal :=
  match takeEvent s with
  | none => .next (idle s)
  | some (.command t, s') =>
    match decode t with
    | .ok i => exec i s'
    | .error _ => .next (illegalCommand s')
  | some (.reset, s') => .next (applyReset s')
  | some (.resetDuring t requests, s') => .next (interruptByReset t requests s')

/-- s with the command whose bits are w issued by the host, next in line (log 1, log 10). -/
def State.withFetchWord (s : State) (nbits w : Nat) : State :=
  issueEvent (.command (tableTransaction nbits w)) s

end Sys2Proof.Machine
end

