-- ==== Sys2Proof/Machine/Run.lean ====
section
/-! DEFINITION. A run and what it observes (spec/70_reset_and_hazards.md R112). -/

namespace Sys2Proof.Machine

/-- The host issues one event and the block takes it at once; what was pending stays pending. -/
def deliver (e : PortEvent) (s : State) : Host.Outcome State Fault Refusal := step (issueEvent e s)

/-- A finite sequence of events, one at a time (spec/20_memory.md R38). -/
def deliverAll (es : List PortEvent) (s : State) : Host.Outcome State Fault Refusal :=
  match es with
  | [] => .next s
  | e :: rest => andThen (deliver e s) (deliverAll rest)

/-- R112: the list of responses and the final values of the registers of R16. -/
structure Observation where
  responses : List Response
  seeded : Bool
  state : Lanes Word64
  inc : Lanes Word64
  mulLo : Word32
  mulHi : Word32
deriving DecidableEq, Repr

/-- What a run that has ended in s observes (R112). -/
def observe (s : State) : Observation := ⟨s.responses, s.seeded, s.state, s.inc, s.mulLo, s.mulHi⟩

/-- R112: "A run is a reset followed by a finite sequence of commands, each with its entropy answers." -/
def runFromReset (es : List PortEvent) (answers : List EntropyAnswer) : Host.Outcome Observation Fault Refusal :=
  andThen (deliverAll es { State.reset with entropyIn := answers }) fun s => .next (observe s)

end Sys2Proof.Machine
end

