-- ==== Sys2Proof/Machine/Adapter.lean ====
section
/-! DEFINITION. The host adapter procedures of spec/44_host_adapter.md (R83 to R91): host software that issues STEP
commands on the command port and reshapes their responses (log 15). -/

namespace Sys2Proof.Machine

/-- What a procedure returns to its caller: a value, or the status of the STEP that failed (R83). -/
inductive HostResult (α : Type) where
  | ok (a : α)
  | failed (st : Status)
deriving DecidableEq, Repr

/-- Issues one STEP and reads its response, the newest one (every command gets exactly one, spec/30_encoding.md R44). -/
def issueStep (s : State) : Host.Outcome (Response × State) Fault Refusal :=
  andThen (deliver (.command (encode .step)) s) fun s' => .next (s'.responses.getLastD ⟨.errIllegal, []⟩, s')

/-- R84: one STEP; returns O[0] and discards lanes 1 to 3. -/
def nextU32 (s : State) : Host.Outcome (HostResult Word32 × State) Fault Refusal :=
  andThen (issueStep s) fun (r, s') =>
    if r.status = .ok then .next (.ok (r.data.getD 0 0), s') else .next (.failed r.status, s')

/-- R85: one STEP; returns {O[1], O[0]}, the first half of `u64pair`, and discards the other 64 bits. -/
def nextU64 (s : State) : Host.Outcome (HostResult Word64 × State) Fault Refusal :=
  andThen (issueStep s) fun (r, s') =>
    if r.status = .ok then .next (.ok (u64pair r.data).1, s') else .next (.failed r.status, s')

/-- `dest[off .. off+|bs|-1] <- bs`. -/
def writeBytes (dest : List Byte) (off : Nat) (bs : List Byte) : List Byte :=
  dest.take off ++ bs ++ dest.drop (off + bs.length)

/-- What `fill_bytes` leaves: its result, the buffer and the machine. -/
structure Filled where
  result : HostResult Unit
  dest : List Byte
  machine : State
deriving DecidableEq, Repr

/-- The last, partial chunk of R86: r bytes at off, none when r = 0. -/
def fillTail (off r : Nat) (dest : List Byte) (s : State) : Host.Outcome Filled Fault Refusal :=
  if r = 0 then .next ⟨.ok (), dest, s⟩
  else
    andThen (issueStep s) fun (resp, s') =>
      if resp.status = .ok then .next ⟨.ok (), writeBytes dest off ((bytes16 resp.data).take r), s'⟩
      else .next ⟨.failed resp.status, dest, s'⟩

/-- The loop of R86: k whole chunks from chunk c on, then the tail of r bytes. A failing STEP ends it, and "the bytes
already written by earlier chunks stay written" (R83). -/
def fillChunks (k c r : Nat) (dest : List Byte) (s : State) : Host.Outcome Filled Fault Refusal :=
  match k with
  | 0 => fillTail (Config.stepOutBytes * c) r dest s
  | k + 1 =>
    andThen (issueStep s) fun (resp, s') =>
      if resp.status = .ok then
        fillChunks k (c + 1) r (writeBytes dest (Config.stepOutBytes * c) (bytes16 resp.data)) s'
      else .next ⟨.failed resp.status, dest, s'⟩

/-- R86: `fill_bytes(dest)`. -/
def fillBytes (dest : List Byte) (s : State) : Host.Outcome Filled Fault Refusal :=
  fillChunks (dest.length / Config.stepOutBytes) 0 (dest.length % Config.stepOutBytes) dest s

/-- R87: `try_fill_bytes(dest)` performs R86 and returns Ok; where a STEP fails it returns that status (D19). -/
def tryFillBytes (dest : List Byte) (s : State) : Host.Outcome Filled Fault Refusal := fillBytes dest s

end Sys2Proof.Machine
end

