-- ==== Sys2Proof/Machine/Assembler.lean ====
section
/-! DEFINITION. The assembler of spec/30_encoding.md R53, from a line's text to its transaction (log 14). -/

namespace Sys2Proof.Machine

/-- R53: one line, its literals not yet cut to their width. `raw` is the directive that emits any transaction. -/
inductive AsmLine where
  | wmul (x y : Lanes Int)
  | rotr (v r : Lanes Int)
  | seed (s i : Lanes Int)
  | seedEntropy
  | step
  | raw (c : Int) (p : List Int)
deriving DecidableEq, Repr

/-- R53: a literal fits a w-bit operand when it is below 2^w or, negative, a w-bit two's-complement value. -/
def literalFits (w : Nat) (z : Int) : Bool := decide (-(2 ^ (w - 1) : Int) ≤ z) && decide (z < (2 ^ w : Int))

/-- All four literals of a vector fit. -/
def vectorFits (w : Nat) (v : Lanes Int) : Bool := v.toList.all (literalFits w)

/-- R53: "A literal that does not fit its operand's width is refused." -/
def AsmLine.wellFormed (l : AsmLine) : Bool :=
  match l with
  | .wmul x y => vectorFits 64 x && vectorFits 64 y
  | .rotr v r => vectorFits 32 v && vectorFits 32 r
  | .seed s i => vectorFits 64 s && vectorFits 64 i
  | .seedEntropy => true
  | .step => true
  | .raw c p => literalFits 32 c && p.all (literalFits 32)

/-- The bits of a vector of literals, negative ones in two's complement (R53, spec/90_conflicts.md C1). -/
def vectorBits (w : Nat) (v : Lanes Int) : Lanes (BitVec w) := .ofFn fun i => BitVec.ofInt w (v.get i)

/-- R53: the transaction of a line, `none` where a literal does not fit. -/
def assembleLine (l : AsmLine) : Option Transaction :=
  if l.wellFormed then
    match l with
    | .wmul x y => some (encode (.wmul (vectorBits 64 x) (vectorBits 64 y)))
    | .rotr v r => some (encode (.rotr (vectorBits 32 v) (vectorBits 32 r)))
    | .seed s i => some (encode (.seed (vectorBits 64 s) (vectorBits 64 i)))
    | .seedEntropy => some (encode .seedEntropy)
    | .step => some (encode .step)
    | .raw c p => some ⟨BitVec.ofInt 32 c, p.map (BitVec.ofInt 32)⟩
  else none

/-! ### Text -/

/-- The pieces of a line. -/
inductive Token where
  | word (cs : List Char)
  | comma
  | openBrace
  | closeBrace
deriving DecidableEq, Repr

/-- The word read so far, if any. -/
def flushWord (cur : List Char) : List Token := if cur.isEmpty then [] else [.word cur]

/-- Cuts a line into tokens; `;` ends it, blanks separate words (log 14). The braces are the characters 123 and 125. -/
def tokensFrom (cs cur : List Char) : List Token :=
  match cs with
  | [] => flushWord cur
  | c :: rest =>
    if c = ';' then flushWord cur
    else if c = ' ' ∨ c = '\t' ∨ c = '\r' then flushWord cur ++ tokensFrom rest []
    else if c = ',' then flushWord cur ++ .comma :: tokensFrom rest []
    else if c.toNat = 123 then flushWord cur ++ .openBrace :: tokensFrom rest []
    else if c.toNat = 125 then flushWord cur ++ .closeBrace :: tokensFrom rest []
    else tokensFrom rest (cur ++ [c])

/-- A digit's value in base 10 or 16. -/
def digitValue (base : Nat) (c : Char) : Option Nat :=
  let n := c.toNat
  let d :=
    if 48 ≤ n ∧ n ≤ 57 then n - 48
    else if 65 ≤ n ∧ n ≤ 70 then n - 55
    else if 97 ≤ n ∧ n ≤ 102 then n - 87
    else base
  if d < base then some d else none

/-- The value of digits, the first the most significant, going on from acc. -/
def digitsFrom (base acc : Nat) (cs : List Char) : Option Nat :=
  match cs with
  | [] => some acc
  | c :: rest => (digitValue base c).bind fun d => digitsFrom base (acc * base + d) rest

/-- A number of at least one digit. -/
def number (base : Nat) (cs : List Char) : Option Nat := if cs.isEmpty then none else digitsFrom base 0 cs

/-- R53: unsigned decimal, `0x` hexadecimal, or negative decimal. -/
def literal (cs : List Char) : Option Int :=
  match cs with
  | '-' :: ds => (number 10 ds).map fun n => -(n : Int)
  | '0' :: 'x' :: hs => (number 16 hs).map fun n => (n : Int)
  | ds => (number 10 ds).map fun n => (n : Int)

/-- A vector of four literals in braces, and the tokens after it. -/
def vectorOf (ts : List Token) : Option (Lanes Int × List Token) :=
  match ts with
  | .openBrace :: .word a :: .comma :: .word b :: .comma :: .word c :: .comma :: .word d :: .closeBrace :: rest =>
    match literal a, literal b, literal c, literal d with
    | some a, some b, some c, some d => some (⟨a, b, c, d⟩, rest)
    | _, _, _, _ => none
  | _ => none

/-- Two vectors with a comma between them and nothing after. -/
def twoVectors (ts : List Token) : Option (Lanes Int × Lanes Int) :=
  match vectorOf ts with
  | some (x, .comma :: rest) =>
    match vectorOf rest with
    | some (y, []) => some (x, y)
    | _ => none
  | _ => none

/-- The payload literals of RAW: a comma before each. -/
def rawPayload (ts : List Token) : Option (List Int) :=
  match ts with
  | [] => some []
  | .comma :: .word w :: rest => (literal w).bind fun z => (rawPayload rest).map fun zs => z :: zs
  | _ => none

/-- R53: the forms of a line, by its tokens. -/
def parseTokens (ts : List Token) : Option AsmLine :=
  match ts with
  | .word ['W', 'M', 'U', 'L'] :: rest => (twoVectors rest).map fun q => .wmul q.1 q.2
  | .word ['R', 'O', 'T', 'R'] :: rest => (twoVectors rest).map fun q => .rotr q.1 q.2
  | .word ['S', 'E', 'E', 'D'] :: rest => (twoVectors rest).map fun q => .seed q.1 q.2
  | [.word ['S', 'E', 'E', 'D', '_', 'E', 'N', 'T', 'R', 'O', 'P', 'Y']] => some .seedEntropy
  | [.word ['S', 'T', 'E', 'P']] => some .step
  | .word ['R', 'A', 'W'] :: .word c :: rest =>
    match literal c, rawPayload rest with
    | some c, some p => some (.raw c p)
    | _, _ => none
  | _ => none

/-- One line of text: `none` where it is refused; no transaction for a blank or comment line. -/
def assembleText (line : List Char) : Option (List Transaction) :=
  match tokensFrom line [] with
  | [] => some []
  | ts => ((parseTokens ts).bind assembleLine).map fun t => [t]

/-- The lines of a text. -/
def linesFrom (cs cur : List Char) : List (List Char) :=
  match cs with
  | [] => [cur]
  | c :: rest => if c = '\n' then cur :: linesFrom rest [] else linesFrom rest (cur ++ [c])

/-- R53: "One command per line." The transactions of a whole text, `none` where a line is refused. -/
def assemble (text : List Char) : Option (List Transaction) :=
  (linesFrom text []).foldr (fun line acc => (assembleText line).bind fun ts => acc.map (ts ++ ·)) (some [])

end Sys2Proof.Machine
end

