-- ==== Sys2Proof/Machine/Instances.lean ====
section
/-! DEFINITION. Several instances of the block (spec/20_memory.md R39; spec/60_exceptions.md R103): each owns its state,
and they share nothing (log 16). -/

namespace Sys2Proof.Machine

/-- Instance k of a system takes one step; the others stand still. A number that is no instance's changes nothing. -/
def stepOf (k : Nat) (sys : List State) : Host.Outcome (List State) Fault Refusal :=
  match sys[k]? with
  | none => .next sys
  | some s => andThen (step s) fun s' => .next (sys.set k s')

end Sys2Proof.Machine
end

