-- ==== Sys2Proof/Machine/Reference.lean ====
section
/-! DEFINITION. The scalar reference generator of spec/42_state_engine.md R72, one lane. -/

namespace Sys2Proof.Machine

/-- R72: `s <- (s * M + inc) mod 2^64`. -/
def referenceNext (inc s : Word64) : Word64 := s * Config.mul + inc

/-- R72: `rotr32v(trunc_32(((s >> 18) ^ s) >> 27), s >> 59)`, the rotate as a rotate. -/
def referenceEmit (s : Word64) : Word32 :=
  ((((s >>> 18) ^^^ s) >>> 27).setWidth 32).rotateRight (s >>> 59).toNat

/-- The reference's state after n rounds. -/
def referenceState (inc s : Word64) (n : Nat) : Word64 :=
  match n with
  | 0 => s
  | n + 1 => referenceNext inc (referenceState inc s n)

/-- What the reference emits in round n, counted from 0. -/
def referenceOutput (inc s : Word64) (n : Nat) : Word32 := referenceEmit (referenceState inc s n)

end Sys2Proof.Machine
end

