-- ==== Sys2Proof/Safety.lean ====
section
/-! DEFINITION. What counts as a safe run, in the terms the statements use: the invariant every step keeps, and a step
that does not stop. -/

namespace Sys2Proof.Safety

open Sys2Proof.Machine

/-- spec/43_seeding.md R78, spec/10_state.md R18: `INC[i][0] = 1` in every lane whenever SEEDED = 1. -/
def oddIncrements (s : State) : Prop := s.seeded = true → ∀ i : Fin 4, (s.inc.get i).getLsbD 0 = true

/-- R19: `{MUL_HI, MUL_LO} = M` whenever SEEDED = 1. -/
def fixedMultiplier (s : State) : Prop := s.seeded = true → u64 s.mulHi s.mulLo = Config.mul

/-- spec/30_encoding.md R44, R45: data only with OK, and as many words as some opcode's response has. -/
def lawfulResponse (r : Response) : Prop :=
  (r.data ≠ [] → r.status = .ok) ∧ (r.data.length = 0 ∨ r.data.length = 4 ∨ r.data.length = 8)

/-- The invariant of the machine. -/
def Invariant (s : State) : Prop :=
  oddIncrements s ∧ fixedMultiplier s ∧ ∀ r ∈ s.responses, lawfulResponse r

/-- A step that does not stop. -/
def goesOn (o : Host.Outcome State Fault Refusal) : Prop := ∃ s', o = .next s'

/-- The next event is SEED_ENTROPY and the entropy source never answers one of its requests (R111, U5). -/
def stuckOnEntropy (s : State) : Prop :=
  ∃ t rest, s.pending = .command t :: rest ∧ decode t = .ok .seedEntropy ∧ entropyWaits s = true

end Sys2Proof.Safety
end

