-- ==== Sys2Proof/Certificates/Slice0/Obligations.lean ====
section
/-! DEFINITION. The statements for the provers, from the numbered rules of spec/. Each is named in OBLIGATIONS.json. -/

open Sys2Proof Sys2Proof.Machine Sys2Proof.Safety

/-! ### Encoding -/

/-- Encoding and decoding are inverse: every bit of every operand is kept, and a transaction is a command's in one way
only (spec/30_encoding.md R43, R45, R46, R49, R53). -/
def Obligations.DecodeIffEncode : Prop :=
  ∀ (t : Transaction) (i : Instr), decode t = .ok i ↔ t = encode i

/-- The decoder accepts exactly the transactions that pass the checks of R49 as WellFormed.lean writes them, and names
the first check that fails, in R49's order. -/
def Obligations.DecodeNamesFirstFailedCheck : Prop :=
  ∀ t : Transaction,
    ((∃ i, decode t = .ok i) ↔ t.wellFormed = true) ∧
    (decode t = .error .reservedBits ↔ t.rsvdZero = false) ∧
    (decode t = .error .reservedOpcode ↔ t.rsvdZero = true ∧ t.opcAssigned = false) ∧
    (decode t = .error .wrongLength ↔ t.rsvdZero = true ∧ t.opcAssigned = true ∧ t.lengthRight = false)

/-- R49: a transaction that fails a check is answered ERR_ILLEGAL with no other effect, whatever the state; one that
passes them all is performed. -/
def Obligations.IllegalTransactionAnsweredWithoutEffect : Prop :=
  ∀ (s : State) (t : Transaction) (rest : List PortEvent), s.pending = .command t :: rest →
    (t.wellFormed = false →
      step s = .next { s with pending := rest, responses := s.responses ++ [⟨.errIllegal, []⟩] }) ∧
    (t.wellFormed = true → ∃ i, t = encode i ∧ step s = exec i { s with pending := rest })

/-- R55: the worked encodings, each both encoded and decoded. -/
def Obligations.WorkedEncodingsOfTheSpec : Prop :=
  encode .step = ⟨0x00000005#32, []⟩ ∧
  encode .seedEntropy = ⟨0x00000004#32, []⟩ ∧
  encode (.seed ⟨0, 0, 0, 0⟩ ⟨0, 0, 0, 0⟩) = ⟨0x00000003#32, List.replicate 16 0x00000000#32⟩ ∧
  encode (.seed ⟨0x185706B82C2E03F8, 0, 1, 0xFFFFFFFFFFFFFFFF⟩ ⟨109, 0, 0, 0x5851F42D4C957F2D⟩) =
    ⟨0x00000003#32, [0x2C2E03F8, 0x185706B8, 0, 0, 1, 0, 0xFFFFFFFF, 0xFFFFFFFF, 0x0000006D, 0, 0, 0, 0, 0,
      0x4C957F2D, 0x5851F42D]⟩ ∧
  encode (.rotr ⟨0x12345678, 0x12345678, 0x80000001, 0xDEADBEEF⟩ ⟨0, 4, 1, 8⟩) =
    ⟨0x00000002#32, [0x12345678, 0x12345678, 0x80000001, 0xDEADBEEF, 0, 4, 1, 8]⟩ ∧
  decode ⟨0x00000005#32, []⟩ = .ok .step ∧
  decode ⟨0x00000004#32, []⟩ = .ok .seedEntropy ∧
  decode ⟨0x00000003#32, List.replicate 16 0x00000000#32⟩ = .ok (.seed ⟨0, 0, 0, 0⟩ ⟨0, 0, 0, 0⟩) ∧
  decode ⟨0x00000003#32, [0x2C2E03F8, 0x185706B8, 0, 0, 1, 0, 0xFFFFFFFF, 0xFFFFFFFF, 0x0000006D, 0, 0, 0, 0, 0,
      0x4C957F2D, 0x5851F42D]⟩ =
    .ok (.seed ⟨0x185706B82C2E03F8, 0, 1, 0xFFFFFFFFFFFFFFFF⟩ ⟨109, 0, 0, 0x5851F42D4C957F2D⟩) ∧
  decode ⟨0x00000002#32, [0x12345678, 0x12345678, 0x80000001, 0xDEADBEEF, 0, 4, 1, 8]⟩ =
    .ok (.rotr ⟨0x12345678, 0x12345678, 0x80000001, 0xDEADBEEF⟩ ⟨0, 4, 1, 8⟩) ∧
  decode ⟨0x00000105#32, []⟩ = .error .reservedBits

/-- The command word of WMUL, written out from R43 and R45, with payload words in the order of R46. -/
def Obligations.WmulWordDecodes : Prop :=
  ∀ p0 p1 p2 p3 p4 p5 p6 p7 q0 q1 q2 q3 q4 q5 q6 q7 : Word32,
    decode ⟨0b00000000000000000000000000000001#32,
        [p0, p1, p2, p3, p4, p5, p6, p7, q0, q1, q2, q3, q4, q5, q6, q7]⟩ =
      .ok (.wmul ⟨p1 ++ p0, p3 ++ p2, p5 ++ p4, p7 ++ p6⟩ ⟨q1 ++ q0, q3 ++ q2, q5 ++ q4, q7 ++ q6⟩)

/-! ### The step -/

/-- A step whose next event is a command that decodes to i is exec of i, on the state with that event taken. -/
def Obligations.StepRunsTheDecodedCommand : Prop :=
  ∀ (s : State) (t : Transaction) (rest : List PortEvent) (i : Instr),
    s.pending = .command t :: rest → decode t = .ok i → step s = exec i { s with pending := rest }

/-- spec/20_memory.md R38: events are taken in the order issued, one a step, and an answered command adds its response
after those already given. That a step with nothing issued takes nothing and goes on, is the model's reading (log 2). -/
def Obligations.EventsTakenInOrder : Prop :=
  ∀ s s' : State, step s = .next s' →
    s'.pending = s.pending.tail ∧ ∃ rs, s'.responses = s.responses ++ rs ∧ rs.length ≤ 1

/-- spec/30_encoding.md R44: every command that ends gets exactly one response; data only with OK, as many words as R45
gives the opcode; the status word is the code in bits 7:0 and 0 in bits 31:8. -/
def Obligations.OneResponsePerCommand : Prop :=
  (∀ (s s' : State) (t : Transaction) (rest : List PortEvent),
    s.pending = .command t :: rest → step s = .next s' →
    ∃ r, s'.responses = s.responses ++ [r] ∧ (r.data ≠ [] → r.status = .ok) ∧
      (r.status = .ok → ∃ i, decode t = .ok i ∧ r.data.length = responseWords (opcodeOfInstr i))) ∧
  (∀ st : Status, (statusWord st).extractLsb' 0 8 = statusCode st ∧ (statusWord st).extractLsb' 8 24 = 0#24)

/-- A step stops in exactly one situation, a SEED_ENTROPY whose source never answers (R111, U5; that the stuck command is
a fault is log 6). That every other command ends is R111 with R94 and R99, and a reset is R106. The model's own: that a
step with nothing pending goes on (log 2, DEDUCED; no rule says it), and that an answer of more than 32 bytes counts as
Fail, so that no second request follows it (log 5, DESIGN CHOICE). -/
def Obligations.StepStopsOnlyOnASilentSource : Prop :=
  ∀ s : State, (goesOn (step s) ↔ ¬ stuckOnEntropy s) ∧ (stuckOnEntropy s → step s = .fault .entropySilent)

/-! ### Reset -/

/-- spec/10_state.md R27, spec/70_reset_and_hazards.md R107: after reset SEEDED = 0, no response has been given, and the
block waits. That a step with nothing issued leaves the state as it is, is the model's reading (log 2). -/
def Obligations.ResetLeavesUnseededAndWaiting : Prop :=
  State.reset.seeded = false ∧ State.reset.pending = [] ∧ State.reset.responses = [] ∧
    step State.reset = .next State.reset

/-- R106: reset clears SEEDED, gives no response, makes no entropy request and leaves what the host has still pending. -/
def Obligations.ResetClearsSeededWithoutResponse : Prop :=
  ∀ (s : State) (rest : List PortEvent), s.pending = .reset :: rest →
    ∃ s', step s = .next s' ∧ s'.seeded = false ∧ s'.pending = rest ∧ s'.responses = s.responses ∧
      s'.entropyIn = s.entropyIn ∧ s'.entropyRequests = s.entropyRequests

/-- R106, U8: reset in the middle of a command is reset and nothing more for the block; only the source's used-up answers
differ, at most two, and none unless the command was SEED_ENTROPY (the count is the model's convention, log 9). -/
def Obligations.InterruptedCommandHasNoEffect : Prop :=
  ∀ (s r : State) (t : Transaction) (n : Nat) (rest : List PortEvent),
    s.pending = .resetDuring t n :: rest → step { s with pending := .reset :: rest } = .next r →
    ∃ k, k ≤ 2 ∧ k ≤ n ∧ (t ≠ encode .seedEntropy → k = 0) ∧
      step s = .next { r with entropyIn := s.entropyIn.drop k, entropyRequests := s.entropyRequests + k }

/-! ### Invariants -/

/-- The invariant of Safety.lean holds right after reset. -/
def Obligations.InvariantHoldsAtReset : Prop := Invariant State.reset

/-- R18, R78 (odd increments), R19 (the fixed multiplier) and R44 (data only with OK) hold after every step from every
state in which they hold, whatever the event and whatever the entropy source answers. -/
def Obligations.EveryStepKeepsTheInvariant : Prop :=
  ∀ s s' : State, Invariant s → step s = .next s' → Invariant s'

/-- R78: "after every SEED and every successful SEED_ENTROPY" every increment lane is odd, whatever was supplied, and no
other command writes INC. -/
def Obligations.SeedingForcesOddIncrements : Prop :=
  ∀ (i : Instr) (s s' : State), exec i s = .next s' →
    ((∃ st inc, i = .seed st inc) ∨ (i = .seedEntropy ∧ s'.seeded = true) →
      ∀ k : Fin 4, (s'.inc.get k).toNat % 2 = 1) ∧
    ((∀ st inc, i ≠ .seed st inc) → ¬ (i = .seedEntropy ∧ s'.seeded = true) → s'.inc = s.inc)

/-- spec/10_state.md R20: what sets SEEDED is a SEED or SEED_ENTROPY answered OK, and what clears it is a reset or a
SEED_ENTROPY answered ERR_ENTROPY. -/
def Obligations.SeededChangesOnlyBySeedingAndReset : Prop :=
  ∀ s s' : State, step s = .next s' →
    (s.seeded = false → s'.seeded = true →
      ∃ t rest, s.pending = .command t :: rest ∧ s'.responses = s.responses ++ [⟨.ok, []⟩] ∧
        ((∃ st inc, t = encode (.seed st inc)) ∨ t = encode .seedEntropy)) ∧
    (s.seeded = true → s'.seeded = false →
      (∃ rest, s.pending = .reset :: rest) ∨ (∃ t n rest, s.pending = .resetDuring t n :: rest) ∨
      ∃ rest, s.pending = .command (encode .seedEntropy) :: rest ∧
        s'.responses = s.responses ++ [⟨.errEntropy, []⟩])

/-! ### What every command leaves unchanged -/

/-- The frame of every command, from the "written by" column of R16 and from R25, R36: what is pending and the responses
already given stay; only SEED_ENTROPY uses the entropy port; WMUL and ROTR write no register; STEP writes STATE alone; a
SEED_ENTROPY that is not answered OK writes no register but SEEDED. That the registers' bits are kept there, where R20
gives them no value, is the model's reading (log 13). The counter of free values is the model's own field, which no rule
names: that among the commands only ROTR moves it is the model's choice (log 7). -/
def Obligations.FrameOfEveryCommand : Prop :=
  ∀ (i : Instr) (s s' : State), exec i s = .next s' →
    s'.pending = s.pending ∧
    (∃ r, s'.responses = s.responses ++ [r]) ∧
    (i ≠ .seedEntropy → s'.entropyIn = s.entropyIn ∧ s'.entropyRequests = s.entropyRequests) ∧
    ((∀ v r, i ≠ .rotr v r) → s'.draws = s.draws) ∧
    ((∃ x y, i = .wmul x y) ∨ (∃ v r, i = .rotr v r) →
      s'.state = s.state ∧ s'.inc = s.inc ∧ s'.mulLo = s.mulLo ∧ s'.mulHi = s.mulHi ∧ s'.seeded = s.seeded) ∧
    (i = .step → s'.inc = s.inc ∧ s'.mulLo = s.mulLo ∧ s'.mulHi = s.mulHi ∧ s'.seeded = s.seeded) ∧
    (i = .seedEntropy → s'.seeded = false →
      s'.state = s.state ∧ s'.inc = s.inc ∧ s'.mulLo = s.mulLo ∧ s'.mulHi = s.mulHi)

/-- spec/60_exceptions.md R96: an error is precise. The registers after a command not answered OK are those before it,
except that ERR_ENTROPY clears SEEDED; ERR_ILLEGAL and ERR_UNSEEDED make no entropy request (R93). -/
def Obligations.ErrorsArePrecise : Prop :=
  ∀ (s s' : State) (t : Transaction) (rest : List PortEvent) (r : Response),
    s.pending = .command t :: rest → step s = .next s' → s'.responses = s.responses ++ [r] → r.status ≠ .ok →
    r.data = [] ∧ s'.state = s.state ∧ s'.inc = s.inc ∧ s'.mulLo = s.mulLo ∧ s'.mulHi = s.mulHi ∧
      s'.pending = rest ∧
      (r.status = .errEntropy → s'.seeded = false) ∧
      (r.status ≠ .errEntropy → s' = { s with pending := rest, responses := s.responses ++ [r] })

/-- R94: the statuses each command can return, once decode has accepted it. -/
def Obligations.StatusesOfEachCommand : Prop :=
  ∀ (i : Instr) (s s' : State) (r : Response), exec i s = .next s' → s'.responses = s.responses ++ [r] →
    match i with
    | .wmul _ _ => r.status = .ok
    | .rotr _ _ => r.status = .ok
    | .seed _ _ => r.status = .ok
    | .seedEntropy => (s'.seeded = true ∧ r.status = .ok) ∨ (s'.seeded = false ∧ r.status = .errEntropy)
    | .step => (s.seeded = true ∧ r.status = .ok) ∨ (s.seeded = false ∧ r.status = .errUnseeded)

/-- R93: the status codes. -/
def Obligations.StatusCodesAsListed : Prop :=
  statusWord .ok = 0x00000000#32 ∧ statusWord .errIllegal = 0x00000001#32 ∧
    statusWord .errUnseeded = 0x00000002#32 ∧ statusWord .errEntropy = 0x00000003#32

/-- R95: decode comes before the SEEDED check, so `RAW 0x00000105` is ERR_ILLEGAL whatever SEEDED is. -/
def Obligations.DecodeComesBeforeTheSeededCheck : Prop :=
  ∀ (s : State) (rest : List PortEvent), s.pending = .command ⟨0x00000105#32, []⟩ :: rest →
    step s = .next { s with pending := rest, responses := s.responses ++ [⟨.errIllegal, []⟩] }

/-! ### WMUL -/

/-- spec/40_wide_mul.md R57: the value law, in exact integers, and its equivalent form. -/
def Obligations.WideMultiplyValueLaw : Prop :=
  ∀ (x : Lanes Word64) (ylo yhi : Lanes Word32) (i : Fin 4),
    ((wmul x ylo yhi).get i).toNat = (x.get i).toNat * (u64 (yhi.get i) (ylo.get i)).toNat % 2 ^ 64 ∧
    ((wmul x ylo yhi).get i).toNat =
      (((hi32 (x.get i)).toNat * (ylo.get i).toNat + (lo32 (x.get i)).toNat * (yhi.get i).toNat) % 2 ^ 32 * 2 ^ 32 +
        (lo32 (x.get i)).toNat * (ylo.get i).toNat) % 2 ^ 64

/-- WMUL completes in every state, seeded or not, answers OK with the four products modulo 2^64, low word first, and
changes nothing else (R60, spec/30_encoding.md R47). -/
def Obligations.WmulAnswersTheProducts : Prop :=
  ∀ (x y : Lanes Word64) (s : State),
    exec (.wmul x y) s =
      .next { s with responses := s.responses ++ [⟨.ok, words64 (.ofFn fun i => x.get i * y.get i)⟩] }

/-- R58: WMUL is commutative; a lane's result is the low 64 bits of the signed product as well, and depends on that
lane's operands alone; no flag is kept. -/
def Obligations.WmulSignedAndCommutative : Prop :=
  ∀ (x y : Lanes Word64) (s : State),
    exec (.wmul x y) s = exec (.wmul y x) s ∧
    ∃ p : Lanes Word64,
      exec (.wmul x y) s = .next { s with responses := s.responses ++ [⟨.ok, words64 p⟩] } ∧
      ∀ i : Fin 4, p.get i = BitVec.ofInt 64 ((x.get i).toInt * (y.get i).toInt) ∧
        p.get i = BitVec.ofNat 64 ((x.get i).toNat * (y.get i).toNat)

/-! ### ROTR -/

/-- spec/41_rotate.md R63: for amounts in 0..31 the rotate moves bit (k + r) mod 32 to bit k, and rotating by r and then
by (32 - r) mod 32 is the identity; the lanes do not interact. -/
def Obligations.RotateValueLaw : Prop :=
  (∀ (v : Word32) (r : Nat), r ≤ 31 →
    (∀ k, k < 32 → (rotr32v v r).getLsbD k = v.getLsbD ((k + r) % 32)) ∧
    rotr32v (rotr32v v r) ((32 - r) % 32) = v) ∧
  ∀ (v r : Lanes Word32) (n : Nat) (i : Fin 4), (r.get i).toNat ≤ 31 →
    (rotrLanes v r n).get i = rotr32v (v.get i) (r.get i).toNat

/-- R62: an amount of 0 gives v, its left term is 0, and an implementation that reduces the left shift's count modulo 32
agrees on every amount in 0..31. -/
def Obligations.RotateByZeroAndReducedCount : Prop :=
  ∀ v : Word32, v <<< 32 = 0#32 ∧ rotr32v v 0 = 0#32 ||| v ∧ rotr32v v 0 = v ∧
    ∀ r, r ≤ 31 → rotr32v v r = (v <<< ((32 - r) % 32)) ||| (v >>> r)

/-- ROTR with every amount in 0..31 completes in every state, seeded or not, answers OK with the rotated lanes, and
changes nothing else (R61, R65). -/
def Obligations.RotrAnswersTheRotates : Prop :=
  ∀ (v r : Lanes Word32) (s : State), (∀ i : Fin 4, (r.get i).toNat ≤ 31) →
    exec (.rotr v r) s =
      .next { s with
        responses := s.responses ++ [⟨.ok, words32 (.ofFn fun i => (v.get i).rotateRight (r.get i).toNat)⟩] }

/-- R64: ROTR with any amounts completes with OK; a lane with an amount in 0..31 is rotated whatever the other lanes'
amounts are; a lane of 32 or more is a draw of `rotr_oob`, of which nothing is known; and STEP never rotates by 32 or
more. The counter of free values, how far it moves, and that the draw stands at an index it passes are the model's choice
(log 7, DESIGN CHOICE); nothing is said of the value drawn. -/
def Obligations.RotrRunsForEveryAmount : Prop :=
  (∀ (v r : Lanes Word32) (s : State), ∃ (w : Lanes Word32) (n : Nat),
    exec (.rotr v r) s =
      .next { s with draws := s.draws + n, responses := s.responses ++ [⟨.ok, words32 w⟩] } ∧
    ∀ i : Fin 4, ((r.get i).toNat ≤ 31 → w.get i = (v.get i).rotateRight (r.get i).toNat) ∧
      (32 ≤ (r.get i).toNat → ∃ m, s.draws ≤ m ∧ m < s.draws + n ∧ w.get i = Config.rotrOob m)) ∧
  ∀ old : Word64, rotAmount old ≤ 31

/-! ### STEP -/

/-- R69, spec/70_reset_and_hazards.md R108: STEP before a seeding answers ERR_UNSEEDED and writes no register. -/
def Obligations.StepBeforeSeedingIsAnsweredUnseeded : Prop :=
  ∀ s : State, s.seeded = false →
    exec .step s = .next { s with responses := s.responses ++ [⟨.errUnseeded, []⟩] }

/-- R69: STEP on a seeded engine completes, answers OK with the permuted old states in lane order, and writes STATE
alone: each lane times {MUL_HI, MUL_LO} plus its INC, modulo 2^64. -/
def Obligations.StepAdvancesAndOutputs : Prop :=
  ∀ s : State, s.seeded = true →
    exec .step s =
      .next { s with
        state := .ofFn fun i => s.state.get i * u64 s.mulHi s.mulLo + s.inc.get i
        responses := s.responses ++ [⟨.ok, words32 (.ofFn fun i => referenceEmit (s.state.get i))⟩] }

/-- R71: the update law with the multiplier M, in exact integers, in every seeded state in which R19 holds. -/
def Obligations.StepUpdateLaw : Prop :=
  ∀ s : State, s.seeded = true → fixedMultiplier s →
    ∃ s', exec .step s = .next s' ∧
      ∀ i : Fin 4, (s'.state.get i).toNat =
        (6364136223846793005 * (s.state.get i).toNat + (s.inc.get i).toNat) % 2 ^ 64

/-- spec/42_state_engine.md R67: the output permutation bit by bit, and that bits 26:0 never affect it. -/
def Obligations.PermutationBitByBit : Prop :=
  (∀ old : Word64,
    (∀ k, 46 ≤ k → k < 64 → ((old >>> 18) ^^^ old).getLsbD k = old.getLsbD k) ∧
    (∀ k, k < 46 → ((old >>> 18) ^^^ old).getLsbD k = (old.getLsbD (18 + k) ^^ old.getLsbD k)) ∧
    (xorshifted old).toNat < 2 ^ 37 ∧
    (xorshifted old).setWidth 32 = ((old >>> 18) ^^^ old).extractLsb' 27 32 ∧
    (∀ k, k < 32 → ((xorshifted old).setWidth 32).getLsbD k =
      (old.getLsbD (27 + k) ^^ (if 45 + k > 63 then false else old.getLsbD (45 + k)))) ∧
    rotAmount old = (old.extractLsb' 59 5).toNat ∧
    perm old = rotr32v ((xorshifted old).setWidth 32) (rotAmount old)) ∧
  ∀ a b : Word64, a.extractLsb' 27 37 = b.extractLsb' 27 37 → perm a = perm b

/-- R70: the outputs are a function of the states before the STEP alone: engines that differ in INC and in the multiplier
registers, but not in STATE, answer the same. -/
def Obligations.OutputsComeFromTheOldState : Prop :=
  ∀ s t : State, s.seeded = true → t.seeded = true → s.state = t.state →
    ∃ s' t' o, exec .step s = .next s' ∧ exec .step t = .next t' ∧
      s'.responses = s.responses ++ [⟨.ok, words32 o⟩] ∧ t'.responses = t.responses ++ [⟨.ok, words32 o⟩] ∧
      ∀ i : Fin 4, o.get i = perm (s.state.get i)

/-- R72: "the defining correctness property of the whole core". After SEED, N STEPs answer in lane i what the scalar
reference emits in N rounds from s = S[i] and inc = I[i] | 1. -/
def Obligations.CrossValidationAgainstTheScalarReference : Prop :=
  ∀ (s : State) (st inc : Lanes Word64) (n : Nat), ∃ s',
    deliverAll (.command (encode (.seed st inc)) :: List.replicate n (.command (encode .step))) s = .next s' ∧
    s'.responses = s.responses ++ ⟨.ok, []⟩ ::
      (List.range n).map fun k =>
        ⟨.ok, words32 (.ofFn fun i => referenceOutput (inc.get i ||| 1#64) (st.get i) k)⟩

/-- After R73: engines seeded alike and given the same events return the same responses and reach the same registers, where
the inputs outside the block (the entropy answers and the free values, R7) are the same; and nothing in STEP depends on
anything but the registers. The model's own: the premises on the entropy port and on the two counters, which R73 does not
have and which say that those inputs are the same (logs 4 and 7); and that the events may be resets, after which the
registers are equal because their free values are drawn at equal counters (logs 8 and 9). -/
def Obligations.SeededEnginesAreDeterministic : Prop :=
  (∀ (s t s' : State) (st inc : Lanes Word64) (es : List PortEvent),
    s.entropyIn = t.entropyIn → s.entropyRequests = t.entropyRequests → s.draws = t.draws →
    deliverAll (.command (encode (.seed st inc)) :: es) s = .next s' →
    ∃ t' rs, deliverAll (.command (encode (.seed st inc)) :: es) t = .next t' ∧
      s'.responses = s.responses ++ rs ∧ t'.responses = t.responses ++ rs ∧
      s'.state = t'.state ∧ s'.inc = t'.inc ∧ s'.mulLo = t'.mulLo ∧ s'.mulHi = t'.mulHi ∧ s'.seeded = t'.seeded) ∧
  ∀ s t : State,
    s.state = t.state → s.inc = t.inc → s.mulLo = t.mulLo → s.mulHi = t.mulHi → s.seeded = t.seeded →
    ∃ s' t' r, exec .step s = .next s' ∧ exec .step t = .next t' ∧
      s'.responses = s.responses ++ [r] ∧ t'.responses = t.responses ++ [r] ∧ s'.state = t'.state

/-- R74: seeds that agree in lane i give the same outputs and the same end state in lane i, over any number of STEPs,
whatever the other lanes hold. -/
def Obligations.LanesAreIndependent : Prop :=
  ∀ (s t : State) (st st' inc inc' : Lanes Word64) (i : Fin 4) (n : Nat),
    st.get i = st'.get i → inc.get i = inc'.get i →
    ∃ s' t',
      deliverAll (.command (encode (.seed st inc)) :: List.replicate n (.command (encode .step))) s = .next s' ∧
      deliverAll (.command (encode (.seed st' inc')) :: List.replicate n (.command (encode .step))) t = .next t' ∧
      (s'.responses.drop s.responses.length).map (fun r => r.data[i.val]?) =
        (t'.responses.drop t.responses.length).map (fun r => r.data[i.val]?) ∧
      s'.state.get i = t'.state.get i ∧ s'.inc.get i = t'.inc.get i

/-! ### SEED and SEED_ENTROPY -/

/-- spec/43_seeding.md R77: SEED completes in every state and writes every register as its pseudocode says. -/
def Obligations.SeedConstructsTheEngine : Prop :=
  ∀ (st inc : Lanes Word64) (s : State),
    exec (.seed st inc) s =
      .next { s with
        state := st
        inc := .ofFn fun i => inc.get i ||| 1#64
        mulLo := 0x4C957F2D#32
        mulHi := 0x5851F42D#32
        seeded := true
        responses := s.responses ++ [⟨.ok, []⟩] }

/-- The corner cases of R77: an even increment becomes I + 1, an odd one is unchanged, and 2^64 - 1 does not wrap. -/
def Obligations.SeedRoundsIncrementsUpToOdd : Prop :=
  ∀ (st inc : Lanes Word64) (s : State), ∃ s', exec (.seed st inc) s = .next s' ∧
    ∀ i : Fin 4, (s'.inc.get i).toNat =
      if (inc.get i).toNat % 2 = 0 then (inc.get i).toNat + 1 else (inc.get i).toNat

/-- R79, spec/20_memory.md R31: two answers of 32 bytes construct the engine from the little-endian lanes, the first
block as STATE and the second as INC with its low bit set; two requests are made. -/
def Obligations.SeedEntropyConstructsFromTwoBlocks : Prop :=
  ∀ (s : State) (a b : List Byte) (rest : List EntropyAnswer),
    s.entropyIn = .bytes a :: .bytes b :: rest → a.length = 32 → b.length = 32 →
    ∃ st inc : Lanes Word64,
      exec .seedEntropy s =
        .next { s with
          state := st
          inc := inc
          mulLo := 0x4C957F2D#32
          mulHi := 0x5851F42D#32
          seeded := true
          entropyIn := rest
          entropyRequests := s.entropyRequests + 2
          responses := s.responses ++ [⟨.ok, []⟩] } ∧
      ∀ i : Fin 4,
        (st.get i).toNat = ((List.range 8).map fun j => (a.getD (8 * i.val + j) 0).toNat * 2 ^ (8 * j)).sum ∧
        inc.get i =
          BitVec.ofNat 64 ((List.range 8).map fun j => (b.getD (8 * i.val + j) 0).toNat * 2 ^ (8 * j)).sum ||| 1#64

/-- R79, R80, R76: a Fail or a short answer, first or second, is reported as ERR_ENTROPY; SEEDED is cleared, no other
register is written, and no request follows a Fail. -/
def Obligations.EntropyFailureIsReported : Prop :=
  ∀ (s : State) (a : EntropyAnswer) (rest : List EntropyAnswer),
    (a = .fail ∨ ∃ b, a = .bytes b ∧ b.length < 32) →
    (s.entropyIn = a :: rest →
      exec .seedEntropy s =
        .next { s with
          seeded := false
          entropyIn := rest
          entropyRequests := s.entropyRequests + 1
          responses := s.responses ++ [⟨.errEntropy, []⟩] }) ∧
    (∀ b : List Byte, b.length = 32 → s.entropyIn = .bytes b :: a :: rest →
      exec .seedEntropy s =
        .next { s with
          seeded := false
          entropyIn := rest
          entropyRequests := s.entropyRequests + 2
          responses := s.responses ++ [⟨.errEntropy, []⟩] })

/-- SEED_ENTROPY completes whenever the source answers, whatever it answers (also where the answers are draws of the
oracle): it makes one or two requests and either constructs and answers OK, or clears SEEDED, answers ERR_ENTROPY and
keeps the other registers (R79, R80, R111). That an answer of more than 32 bytes counts as Fail is the model's choice
(log 5), and that the bits of registers which hold no value are kept is its reading (log 13). -/
def Obligations.SeedEntropyCompletesWhenAnswered : Prop :=
  ∀ s : State, entropyWaits s = false →
    ∃ s', exec .seedEntropy s = .next s' ∧
      s.entropyRequests + 1 ≤ s'.entropyRequests ∧ s'.entropyRequests ≤ s.entropyRequests + 2 ∧
      ((s'.seeded = true ∧ s'.responses = s.responses ++ [⟨.ok, []⟩] ∧ s'.entropyRequests = s.entropyRequests + 2 ∧
          u64 s'.mulHi s'.mulLo = Config.mul) ∨
        (s'.seeded = false ∧ s'.responses = s.responses ++ [⟨.errEntropy, []⟩] ∧ s'.state = s.state ∧
          s'.inc = s.inc ∧ s'.mulLo = s.mulLo ∧ s'.mulHi = s.mulHi))

/-- R111, spec/93_implementation_defined.md U5: SEED_ENTROPY is stuck exactly when the source never answers its first
request, or answers it with a block of 32 bytes and never answers the second. That there is no stop after a first answer
of more than 32 bytes, which counts as Fail, is the model's choice (log 5, DESIGN CHOICE); that the stuck command is a
fault is log 6. -/
def Obligations.SeedEntropyStuckOnASilentSource : Prop :=
  ∀ s : State, exec .seedEntropy s = .fault .entropySilent ↔
    (∃ rest, s.entropyIn = .silent :: rest) ∨
      ∃ b rest, b.length = 32 ∧ s.entropyIn = .bytes b :: .silent :: rest

/-- R82: a successful seeding replaces the registers entirely: whatever two engines held before, the same seeding command
with the same entropy answers leaves them with the same registers. The two premises on the entropy port are the model's
form of "the same entropy answers" (log 4). -/
def Obligations.ReseedingReplacesEverything : Prop :=
  ∀ (i : Instr) (s t s' : State), (i = .seedEntropy ∨ ∃ st inc, i = .seed st inc) →
    s.entropyIn = t.entropyIn → s.entropyRequests = t.entropyRequests →
    exec i s = .next s' → s'.seeded = true →
    ∃ t', exec i t = .next t' ∧ t'.seeded = true ∧ t'.state = s'.state ∧ t'.inc = s'.inc ∧
      t'.mulLo = s'.mulLo ∧ t'.mulHi = s'.mulHi

/-! ### The host's views and procedures -/

/-- spec/20_memory.md R33: `bytes16` is lane 0 first, each lane little-endian; `u64pair` is {out[1], out[0]} and
{out[3], out[2]}; and the two agree. -/
def Obligations.ByteAndPairViewsAgree : Prop :=
  ∀ out : List Word32,
    (∀ j k, j < 4 → k < 4 → (bytes16 out)[4 * j + k]? = some ((out.getD j 0).extractLsb' (8 * k) 8)) ∧
    (bytes16 out).length = 16 ∧
    u64pair out = (out.getD 1 0 ++ out.getD 0 0, out.getD 3 0 ++ out.getD 2 0) ∧
    le64 (bytes16 out) 0 = (u64pair out).1 ∧ le64 (bytes16 out) 8 = (u64pair out).2

/-- spec/44_host_adapter.md R84: on a seeded engine next_u32 issues one STEP and returns O[0]. -/
def Obligations.NextU32ReturnsLaneZero : Prop :=
  ∀ s : State, s.seeded = true →
    ∃ s', exec .step s = .next s' ∧ nextU32 s = .next (.ok (perm s.state.l0), s')

/-- R85: on a seeded engine next_u64 issues one STEP and returns O[0] + O[1] * 2^32. -/
def Obligations.NextU64ReturnsLanesOneAndZero : Prop :=
  ∀ s : State, s.seeded = true →
    ∃ s' v, exec .step s = .next s' ∧ nextU64 s = .next (.ok v, s') ∧
      v.toNat = (perm s.state.l0).toNat + (perm s.state.l1).toNat * 2 ^ 32

/-- R88, R86: on a seeded engine fill_bytes of L bytes issues L div 16 STEPs, one more when 16 does not divide L, and
leaves the first L bytes of their results in order; try_fill_bytes does the same and returns Ok (R87). -/
def Obligations.FillBytesIsExact : Prop :=
  ∀ (s : State) (dest : List Byte), s.seeded = true →
    ∃ s' rs, deliverAll (List.replicate ((dest.length + 15) / 16) (.command (encode .step))) s = .next s' ∧
      s'.responses = s.responses ++ rs ∧
      fillBytes dest s = .next ⟨.ok (), (rs.flatMap fun r => bytes16 r.data).take dest.length, s'⟩ ∧
      tryFillBytes dest s = .next ⟨.ok (), (rs.flatMap fun r => bytes16 r.data).take dest.length, s'⟩

/-- R89: fill_bytes and try_fill_bytes never write outside the buffer: its length stays, in every state, whatever the
STEPs answer; and a buffer of length 0 is a no-op. -/
def Obligations.FillBytesStaysInBounds : Prop :=
  ∀ (s : State) (dest : List Byte),
    (∃ f, fillBytes dest s = .next f ∧ tryFillBytes dest s = .next f ∧ f.dest.length = dest.length) ∧
    fillBytes [] s = .next ⟨.ok (), [], s⟩

/-- R83: on an engine that is not seeded, each procedure stops at its first STEP, returns ERR_UNSEEDED and writes no
byte. -/
def Obligations.AdapterReportsTheFailingStatus : Prop :=
  ∀ (s : State) (dest : List Byte), s.seeded = false →
    ∃ s', s' = { s with responses := s.responses ++ [⟨.errUnseeded, []⟩] } ∧
      nextU32 s = .next (.failed .errUnseeded, s') ∧ nextU64 s = .next (.failed .errUnseeded, s') ∧
      (dest ≠ [] → fillBytes dest s = .next ⟨.failed .errUnseeded, dest, s'⟩ ∧
        tryFillBytes dest s = .next ⟨.failed .errUnseeded, dest, s'⟩)

/-- spec/30_encoding.md R53: a literal that fits keeps its value, unsigned, or as two's complement when negative. -/
def Obligations.FittingLiteralsKeepTheirValue : Prop :=
  ∀ (w : Nat) (z : Int), 0 < w → literalFits w z = true →
    (0 ≤ z → ((BitVec.ofInt w z).toNat : Int) = z) ∧ (z < 0 → (BitVec.ofInt w z).toInt = z)

/-- R53: a line is refused exactly when a literal does not fit; a command's line assembles to a transaction that decodes
to that command; RAW emits its words verbatim, whatever they are. -/
def Obligations.AssembledLinesDecodeToTheirCommand : Prop :=
  ∀ l : AsmLine, (assembleLine l = none ↔ l.wellFormed = false) ∧
    ∀ t, assembleLine l = some t →
      match l with
      | .wmul x y => decode t = .ok (.wmul (vectorBits 64 x) (vectorBits 64 y))
      | .rotr v r => decode t = .ok (.rotr (vectorBits 32 v) (vectorBits 32 r))
      | .seed s i => decode t = .ok (.seed (vectorBits 64 s) (vectorBits 64 i))
      | .seedEntropy => decode t = .ok .seedEntropy
      | .step => decode t = .ok .step
      | .raw c p => t = ⟨BitVec.ofInt 32 c, p.map (BitVec.ofInt 32)⟩

/-! ### Several instances -/

/-- spec/20_memory.md R39: steps of different instances commute, and a step of one leaves every other as it was. -/
def Obligations.InstancesCommute : Prop :=
  ∀ (sys a b : List State) (j k : Nat), j ≠ k → stepOf j sys = .next a → stepOf k a = .next b →
    a[k]? = sys[k]? ∧ ∃ d, stepOf k sys = .next d ∧ stepOf j d = .next b ∧ d[j]? = sys[j]?
end

