-- ==== Sys2Proof/Laws/State.lean ====
section
/-! SUPPORT. Each field of State after each shared update of Machine/Ops.lean and Machine/Flags.lean, so that no proof
unfolds a record update. -/

namespace Sys2Proof.Machine

variable (s : State)

@[simp] theorem issueEvent_state (e : PortEvent) : (issueEvent e s).state = s.state := rfl
@[simp] theorem issueEvent_inc (e : PortEvent) : (issueEvent e s).inc = s.inc := rfl
@[simp] theorem issueEvent_mulLo (e : PortEvent) : (issueEvent e s).mulLo = s.mulLo := rfl
@[simp] theorem issueEvent_mulHi (e : PortEvent) : (issueEvent e s).mulHi = s.mulHi := rfl
@[simp] theorem issueEvent_seeded (e : PortEvent) : (issueEvent e s).seeded = s.seeded := rfl
@[simp] theorem issueEvent_pending (e : PortEvent) : (issueEvent e s).pending = e :: s.pending := rfl
@[simp] theorem issueEvent_responses (e : PortEvent) : (issueEvent e s).responses = s.responses := rfl
@[simp] theorem issueEvent_entropyIn (e : PortEvent) : (issueEvent e s).entropyIn = s.entropyIn := rfl
@[simp] theorem issueEvent_entropyRequests (e : PortEvent) : (issueEvent e s).entropyRequests = s.entropyRequests := rfl
@[simp] theorem issueEvent_draws (e : PortEvent) : (issueEvent e s).draws = s.draws := rfl

@[simp] theorem respond_state (st : Status) (d : List Word32) : (respond st d s).state = s.state := rfl
@[simp] theorem respond_inc (st : Status) (d : List Word32) : (respond st d s).inc = s.inc := rfl
@[simp] theorem respond_mulLo (st : Status) (d : List Word32) : (respond st d s).mulLo = s.mulLo := rfl
@[simp] theorem respond_mulHi (st : Status) (d : List Word32) : (respond st d s).mulHi = s.mulHi := rfl
@[simp] theorem respond_seeded (st : Status) (d : List Word32) : (respond st d s).seeded = s.seeded := rfl
@[simp] theorem respond_pending (st : Status) (d : List Word32) : (respond st d s).pending = s.pending := rfl
@[simp] theorem respond_responses (st : Status) (d : List Word32) : (respond st d s).responses = s.responses ++ [⟨st, d⟩] := rfl
@[simp] theorem respond_entropyIn (st : Status) (d : List Word32) : (respond st d s).entropyIn = s.entropyIn := rfl
@[simp] theorem respond_entropyRequests (st : Status) (d : List Word32) : (respond st d s).entropyRequests = s.entropyRequests := rfl
@[simp] theorem respond_draws (st : Status) (d : List Word32) : (respond st d s).draws = s.draws := rfl

@[simp] theorem respondError_state (st : Status) : (respondError st s).state = s.state := rfl
@[simp] theorem respondError_inc (st : Status) : (respondError st s).inc = s.inc := rfl
@[simp] theorem respondError_mulLo (st : Status) : (respondError st s).mulLo = s.mulLo := rfl
@[simp] theorem respondError_mulHi (st : Status) : (respondError st s).mulHi = s.mulHi := rfl
@[simp] theorem respondError_seeded (st : Status) : (respondError st s).seeded = s.seeded := rfl
@[simp] theorem respondError_pending (st : Status) : (respondError st s).pending = s.pending := rfl
@[simp] theorem respondError_responses (st : Status) : (respondError st s).responses = s.responses ++ [⟨st, []⟩] := rfl
@[simp] theorem respondError_entropyIn (st : Status) : (respondError st s).entropyIn = s.entropyIn := rfl
@[simp] theorem respondError_entropyRequests (st : Status) : (respondError st s).entropyRequests = s.entropyRequests := rfl
@[simp] theorem respondError_draws (st : Status) : (respondError st s).draws = s.draws := rfl

@[simp] theorem setSeeded_state : (setSeeded s).state = s.state := rfl
@[simp] theorem setSeeded_inc : (setSeeded s).inc = s.inc := rfl
@[simp] theorem setSeeded_mulLo : (setSeeded s).mulLo = s.mulLo := rfl
@[simp] theorem setSeeded_mulHi : (setSeeded s).mulHi = s.mulHi := rfl
@[simp] theorem setSeeded_seeded : (setSeeded s).seeded = true := rfl
@[simp] theorem setSeeded_pending : (setSeeded s).pending = s.pending := rfl
@[simp] theorem setSeeded_responses : (setSeeded s).responses = s.responses := rfl
@[simp] theorem setSeeded_entropyIn : (setSeeded s).entropyIn = s.entropyIn := rfl
@[simp] theorem setSeeded_entropyRequests : (setSeeded s).entropyRequests = s.entropyRequests := rfl
@[simp] theorem setSeeded_draws : (setSeeded s).draws = s.draws := rfl

@[simp] theorem clearSeeded_state : (clearSeeded s).state = s.state := rfl
@[simp] theorem clearSeeded_inc : (clearSeeded s).inc = s.inc := rfl
@[simp] theorem clearSeeded_mulLo : (clearSeeded s).mulLo = s.mulLo := rfl
@[simp] theorem clearSeeded_mulHi : (clearSeeded s).mulHi = s.mulHi := rfl
@[simp] theorem clearSeeded_seeded : (clearSeeded s).seeded = false := rfl
@[simp] theorem clearSeeded_pending : (clearSeeded s).pending = s.pending := rfl
@[simp] theorem clearSeeded_responses : (clearSeeded s).responses = s.responses := rfl
@[simp] theorem clearSeeded_entropyIn : (clearSeeded s).entropyIn = s.entropyIn := rfl
@[simp] theorem clearSeeded_entropyRequests : (clearSeeded s).entropyRequests = s.entropyRequests := rfl
@[simp] theorem clearSeeded_draws : (clearSeeded s).draws = s.draws := rfl

@[simp] theorem construct_state (st i : Lanes Word64) : (construct st i s).state = st := rfl
@[simp] theorem construct_inc (st i : Lanes Word64) : (construct st i s).inc = .ofFn fun k => i.get k ||| 1#64 := rfl
@[simp] theorem construct_mulLo (st i : Lanes Word64) : (construct st i s).mulLo = Config.mulLo := rfl
@[simp] theorem construct_mulHi (st i : Lanes Word64) : (construct st i s).mulHi = Config.mulHi := rfl
@[simp] theorem construct_seeded (st i : Lanes Word64) : (construct st i s).seeded = true := rfl
@[simp] theorem construct_pending (st i : Lanes Word64) : (construct st i s).pending = s.pending := rfl
@[simp] theorem construct_responses (st i : Lanes Word64) : (construct st i s).responses = s.responses := rfl
@[simp] theorem construct_entropyIn (st i : Lanes Word64) : (construct st i s).entropyIn = s.entropyIn := rfl
@[simp] theorem construct_entropyRequests (st i : Lanes Word64) : (construct st i s).entropyRequests = s.entropyRequests := rfl
@[simp] theorem construct_draws (st i : Lanes Word64) : (construct st i s).draws = s.draws := rfl

@[simp] theorem applyReset_state : (applyReset s).state = unspecifiedLanes s.draws := rfl
@[simp] theorem applyReset_inc : (applyReset s).inc = unspecifiedLanes (s.draws + 4) := rfl
@[simp] theorem applyReset_mulLo : (applyReset s).mulLo = Config.unspecified32 s.draws := rfl
@[simp] theorem applyReset_mulHi : (applyReset s).mulHi = Config.unspecified32 (s.draws + 1) := rfl
@[simp] theorem applyReset_seeded : (applyReset s).seeded = false := rfl
@[simp] theorem applyReset_pending : (applyReset s).pending = s.pending := rfl
@[simp] theorem applyReset_responses : (applyReset s).responses = s.responses := rfl
@[simp] theorem applyReset_entropyIn : (applyReset s).entropyIn = s.entropyIn := rfl
@[simp] theorem applyReset_entropyRequests : (applyReset s).entropyRequests = s.entropyRequests := rfl
@[simp] theorem applyReset_draws : (applyReset s).draws = s.draws + 8 := rfl

end Sys2Proof.Machine
end

