-- ==== Sys2Proof/Laws/Word.lean ====
section
/-! SUPPORT. Lanes, halves and bytes: what reading back what was built gives. -/

namespace Sys2Proof

namespace Lanes

@[simp] theorem get_ofFn {α : Type} (f : Fin 4 → α) (i : Fin 4) : (ofFn f).get i = f i := by
  fin_cases i <;> rfl

@[simp] theorem get_broadcast {α : Type} (a : α) (i : Fin 4) : (broadcast a).get i = a := by
  fin_cases i <;> rfl

@[simp] theorem ofFn_get {α : Type} (v : Lanes α) : ofFn v.get = v := rfl

theorem ext_get {α : Type} {v w : Lanes α} (h : ∀ i, v.get i = w.get i) : v = w := by
  have h0 := h 0; have h1 := h 1; have h2 := h 2; have h3 := h 3
  cases v; cases w; simp_all [get]

theorem forall_mem_toList {α : Type} (v : Lanes α) (p : α → Prop) :
    (∀ a ∈ v.toList, p a) ↔ ∀ i, p (v.get i) := by
  constructor
  · intro h i
    apply h
    fin_cases i <;> simp [toList, get]
  · intro h a ha
    simp only [toList, List.mem_cons, List.not_mem_nil, or_false] at ha
    rcases ha with rfl | rfl | rfl | rfl
    exacts [h 0, h 1, h 2, h 3]

@[simp] theorem length_toList {α : Type} (v : Lanes α) : v.toList.length = 4 := rfl

end Lanes

theorem getLsbD_u64 (hi lo : Word32) (k : Nat) :
    (u64 hi lo).getLsbD k = if k < 32 then lo.getLsbD k else hi.getLsbD (k - 32) := by
  rw [u64]
  exact BitVec.getLsbD_append.trans (by cases decide (k < 32) <;> simp_all)

@[simp] theorem lo32_u64 (hi lo : Word32) : lo32 (u64 hi lo) = lo := by
  apply BitVec.eq_of_getLsbD_eq
  intro k hk
  simp [lo32, getLsbD_u64, hk]

@[simp] theorem hi32_u64 (hi lo : Word32) : hi32 (u64 hi lo) = hi := by
  apply BitVec.eq_of_getLsbD_eq
  intro k hk
  simp [hi32, getLsbD_u64, hk]

@[simp] theorem u64_hi32_lo32 (v : Word64) : u64 (hi32 v) (lo32 v) = v := by
  apply BitVec.eq_of_getLsbD_eq
  intro k hk
  by_cases h : k < 32
  · simp [getLsbD_u64, lo32, h]
  · have h2 : k - 32 < 32 := by omega
    have h3 : 32 + (k - 32) = k := by omega
    simp [getLsbD_u64, hi32, h, h2, h3]

/-- A 64-bit value from its halves, as a number. -/
theorem toNat_u64 (hi lo : Word32) : (u64 hi lo).toNat = hi.toNat * 2 ^ 32 + lo.toNat := by
  have hlo := lo.isLt
  have h : (u64 hi lo).toNat = (hi ++ lo).toNat := rfl
  rw [h, BitVec.toNat_append, Nat.shiftLeft_eq, Nat.mul_comm, Nat.two_pow_add_eq_or_of_lt hlo]

/-- A byte below a wider value, as a number. -/
theorem toNat_append_byte {m : Nat} (a : Byte) (b : BitVec m) : (b ++ a).toNat = a.toNat + b.toNat * 2 ^ 8 := by
  have ha := a.isLt
  rw [BitVec.toNat_append, Nat.shiftLeft_eq, Nat.mul_comm, ← Nat.two_pow_add_eq_or_of_lt ha, Nat.add_comm]

/-- The split multiplier is M (spec/00_scope.md R6). -/
theorem u64_config_mul : u64 Config.mulHi Config.mulLo = Config.mul := by decide

/-- M as the number of spec/00_scope.md R6. -/
theorem toNat_config_mul : Config.mul.toNat = 6364136223846793005 := by decide

@[simp] theorem length_words64 (v : Lanes Word64) : (words64 v).length = 8 := rfl

@[simp] theorem length_words32 (v : Lanes Word32) : (words32 v).length = 4 := rfl

namespace Machine

@[simp] theorem length_bytes4 (w : Word32) : (bytes4 w).length = 4 := rfl

@[simp] theorem length_bytes16 (out : List Word32) : (bytes16 out).length = 16 := rfl

/-- `le64` as a number, the bytes from the least significant up (spec/00_scope.md R11). -/
theorem toNat_le64 (b : List Byte) (k : Nat) :
    (le64 b k).toNat =
      (b.getD k 0).toNat + ((b.getD (k + 1) 0).toNat + ((b.getD (k + 2) 0).toNat + ((b.getD (k + 3) 0).toNat +
        ((b.getD (k + 4) 0).toNat + ((b.getD (k + 5) 0).toNat + ((b.getD (k + 6) 0).toNat +
          (b.getD (k + 7) 0).toNat * 2 ^ 8) * 2 ^ 8) * 2 ^ 8) * 2 ^ 8) * 2 ^ 8) * 2 ^ 8) * 2 ^ 8 := by
  rw [le64]
  exact (toNat_append_byte _ _).trans (by simp only [toNat_append_byte])

end Machine

end Sys2Proof
end

