-- ==== Sys2Proof/Laws/Ops.lean ====
section
/-! SUPPORT. One lemma per shared operation of Machine/Ops.lean that says all it can do. -/

namespace Sys2Proof.Machine

@[simp] theorem takeEvent_issueEvent (e : PortEvent) (s : State) : takeEvent (issueEvent e s) = some (e, s) := rfl

theorem takeEvent_cons {s : State} {e : PortEvent} {rest : List PortEvent} (h : s.pending = e :: rest) :
    takeEvent s = some (e, { s with pending := rest }) := by
  simp [takeEvent, h]

theorem takeEvent_nil {s : State} (h : s.pending = []) : takeEvent s = none := by
  simp [takeEvent, h]

/-- A request changes the entropy port only. -/
theorem entropyRead_frame (s : State) :
    ∃ rest n, (entropyRead s).2 = { s with entropyIn := rest, entropyRequests := n } ∧ n = s.entropyRequests + 1 := by
  unfold entropyRead
  split
  · exact ⟨_, _, rfl, rfl⟩
  · exact ⟨s.entropyIn, _, rfl, rfl⟩

/-- A request whose answer State lists gets that answer. -/
theorem entropyRead_cons {s : State} {a : EntropyAnswer} {rest : List EntropyAnswer} (h : s.entropyIn = a :: rest) :
    entropyRead s = (block? a, { s with entropyIn := rest, entropyRequests := s.entropyRequests + 1 }) := by
  simp [entropyRead, h]

/-- A block is 32 bytes (spec/43_seeding.md R76). -/
theorem block?_eq_some {a : EntropyAnswer} {b : List Byte} :
    block? a = some b ↔ a = .bytes b ∧ b.length = 32 := by
  cases a with
  | bytes c =>
    by_cases hc : c.length = 32
    · simp only [block?, Config.entropyBlock, hc, if_true, Option.some.injEq, EntropyAnswer.bytes.injEq]
      exact ⟨fun h => ⟨h, h ▸ hc⟩, fun h => h.1⟩
    · simp only [block?, Config.entropyBlock, hc, if_false, EntropyAnswer.bytes.injEq, reduceCtorEq, false_iff]
      rintro ⟨rfl, h⟩
      exact hc h
  | fail => simp [block?]
  | silent => simp [block?]

/-- Whether SEED_ENTROPY waits depends on the source's answers alone. -/
theorem entropyWaits_congr {s t : State} (h : s.entropyIn = t.entropyIn) : entropyWaits s = entropyWaits t := by
  simp only [entropyWaits, h]

/-- A command makes at most two entropy requests (spec/70_reset_and_hazards.md R111). -/
theorem requestLimit_le_two (t : Transaction) : requestLimit t ≤ 2 := by
  unfold requestLimit
  split <;> simp

/-- ERR_ILLEGAL adds its response and nothing else (spec/30_encoding.md R49). -/
theorem illegalCommand_eq (s : State) :
    illegalCommand s = { s with responses := s.responses ++ [⟨.errIllegal, []⟩] } := rfl

/-- An interrupted command is a reset, but for the source's used-up answers (spec/70_reset_and_hazards.md R106). -/
theorem interruptByReset_eq (t : Transaction) (n : Nat) (s : State) :
    interruptByReset t n s =
      { applyReset s with
        entropyIn := s.entropyIn.drop (min n (requestLimit t))
        entropyRequests := s.entropyRequests + min n (requestLimit t) } := rfl

/-- `andThen` answers a next result only through two next results. -/
theorem andThen_eq_next {α β : Type} {o : Host.Outcome α Fault Refusal} {f : α → Host.Outcome β Fault Refusal} {b : β} :
    andThen o f = .next b ↔ ∃ a, o = .next a ∧ f a = .next b := by
  cases o <;> simp [andThen]

@[simp] theorem andThen_next {α β : Type} (a : α) (f : α → Host.Outcome β Fault Refusal) :
    andThen (.next a) f = f a := rfl

@[simp] theorem andThen_fault {α β : Type} (r : Fault) (f : α → Host.Outcome β Fault Refusal) :
    andThen (.fault r) f = .fault r := rfl

@[simp] theorem andThen_refused {α β : Type} (r : Refusal) (f : α → Host.Outcome β Fault Refusal) :
    andThen (.refused r) f = .refused r := rfl

end Sys2Proof.Machine
end

