-- ==== Sys2Proof/Laws/Exec.lean ====
section
/-! SUPPORT. What a command can do, said once: the inversion lemmas that proofs about `exec` and `step` cite. -/

namespace Sys2Proof.Machine

theorem exec_wmul (x y : Lanes Word64) (s : State) : exec (.wmul x y) s = execWmul x y s := rfl

theorem exec_rotr (v r : Lanes Word32) (s : State) : exec (.rotr v r) s = execRotr v r s := rfl

theorem exec_seed (st i : Lanes Word64) (s : State) : exec (.seed st i) s = execSeed st i s := rfl

theorem exec_seedEntropy (s : State) : exec .seedEntropy s = execSeedEntropy s := rfl

theorem exec_step (s : State) : exec .step s = execStep s := rfl

/-- SEED_ENTROPY with a source that answers ends in one of two ways, after requests that touched the entropy port only:
it fails, or it constructs from two blocks. -/
theorem seedEntropy_cases (s : State) :
    ∃ s₁, (∃ rest n, s₁ = { s with entropyIn := rest, entropyRequests := n } ∧ n ≤ s.entropyRequests + 2) ∧
      (seedEntropy s = seedEntropyFails s₁ ∨
        ∃ a b, seedEntropy s = respond .ok [] (construct (lanesOfBlock a) (lanesOfBlock b) s₁)) := by
  obtain ⟨r1, n1, h1, e1⟩ := entropyRead_frame s
  obtain ⟨r2, n2, h2, e2⟩ := entropyRead_frame (entropyRead s).2
  have e3 : n2 ≤ s.entropyRequests + 2 := by rw [e2, h1, e1]
  simp only [seedEntropy]
  split
  · exact ⟨_, ⟨r1, n1, h1, by omega⟩, .inl rfl⟩
  · refine ⟨(entropyRead (entropyRead s).2).2, ⟨r2, n2, by rw [h2, h1], e3⟩, ?_⟩
    split
    · exact .inl rfl
    · exact .inr ⟨_, _, rfl⟩

/-- Every command that goes on does one of six things. -/
theorem exec_cases {i : Instr} {s s' : State} (h : exec i s = .next s') :
    (∃ d n, (d.length = 8 ∨ d.length = 4) ∧ ((∃ x y, i = .wmul x y) ∨ ∃ v r, i = .rotr v r) ∧
      s' = respond .ok d { s with draws := n }) ∨
    (∃ st inc, i = .seed st inc ∧ s' = respond .ok [] (construct st inc s)) ∨
    (∃ rest n, i = .seedEntropy ∧
      s' = seedEntropyFails { s with entropyIn := rest, entropyRequests := n }) ∨
    (∃ a b rest n, i = .seedEntropy ∧
      s' = respond .ok [] (construct (lanesOfBlock a) (lanesOfBlock b)
        { s with entropyIn := rest, entropyRequests := n })) ∨
    (i = .step ∧ s.seeded = false ∧ s' = respondError .errUnseeded s) ∨
    (i = .step ∧ s.seeded = true ∧
      s' = respond .ok (words32 (stepOutputs s.state)) { s with state := stepState s }) := by
  cases i with
  | wmul x y =>
    cases h
    exact .inl ⟨_, s.draws, .inl rfl, .inl ⟨_, _, rfl⟩, rfl⟩
  | rotr v r =>
    cases h
    exact .inl ⟨_, _, .inr rfl, .inr ⟨_, _, rfl⟩, rfl⟩
  | seed st inc =>
    cases h
    exact .inr (.inl ⟨_, _, rfl, rfl⟩)
  | seedEntropy =>
    rw [exec_seedEntropy, execSeedEntropy] at h
    split at h
    · cases h
    · injection h with h
      subst h
      obtain ⟨s₁, ⟨rest, n, rfl, -⟩, h | ⟨a, b, h⟩⟩ := seedEntropy_cases s
      · exact .inr (.inr (.inl ⟨rest, n, rfl, h⟩))
      · exact .inr (.inr (.inr (.inl ⟨a, b, rest, n, rfl, h⟩)))
  | step =>
    rw [exec_step, execStep] at h
    split at h <;> rename_i hs
    · injection h with h
      exact .inr (.inr (.inr (.inr (.inl ⟨rfl, hs, h.symm⟩))))
    · injection h with h
      exact .inr (.inr (.inr (.inr (.inr ⟨rfl, by simpa using hs, h.symm⟩))))

/-- Every step that goes on waits, performs a command, answers ERR_ILLEGAL or resets. -/
theorem step_cases {s s' : State} (h : step s = .next s') :
    (s.pending = [] ∧ s' = s) ∨
    (∃ t rest i, s.pending = .command t :: rest ∧ decode t = .ok i ∧
      exec i { s with pending := rest } = .next s') ∨
    (∃ t rest why, s.pending = .command t :: rest ∧ decode t = .error why ∧
      s' = illegalCommand { s with pending := rest }) ∨
    (∃ rest, s.pending = .reset :: rest ∧ s' = applyReset { s with pending := rest }) ∨
    (∃ t n rest, s.pending = .resetDuring t n :: rest ∧
      s' = interruptByReset t n { s with pending := rest }) := by
  rcases hp : s.pending with _ | ⟨e, rest⟩
  · rw [step, takeEvent_nil hp] at h
    injection h with h
    exact .inl ⟨rfl, h.symm⟩
  · rw [step, takeEvent_cons hp] at h
    cases e with
    | command t =>
      rcases hd : decode t with why | i
      · simp only [hd] at h
        injection h with h
        exact .inr (.inr (.inl ⟨t, rest, why, rfl, hd, h.symm⟩))
      · simp only [hd] at h
        exact .inr (.inl ⟨t, rest, i, rfl, hd, h⟩)
    | reset =>
      injection h with h
      exact .inr (.inr (.inr (.inl ⟨rest, rfl, h.symm⟩)))
    | resetDuring t n =>
      injection h with h
      exact .inr (.inr (.inr (.inr ⟨t, n, rest, rfl, h.symm⟩)))

/-- A command issued now is decoded and performed on the state as it stands. -/
theorem deliver_command_ok {t : Transaction} {i : Instr} (s : State) (h : decode t = .ok i) :
    step (issueEvent (.command t) s) = exec i s := by
  simp [step, h]

end Sys2Proof.Machine
end

