-- ==== Sys2Proof/Laws/PerInstr.lean ====
section
/-! SUPPORT. Statements made for every instruction, one lemma per constructor. -/

namespace Sys2Proof.Laws.EncodeWellFormed

/-- The transaction of an instruction passes the three checks of spec/30_encoding.md R49. -/
def Statement (i : Instr) : Prop := (encode i).wellFormed = true

theorem wmul (x y : Lanes Word64) : Statement (.wmul x y) := rfl

theorem rotr (v r : Lanes Word32) : Statement (.rotr v r) := rfl

theorem seed (st increment : Lanes Word64) : Statement (.seed st increment) := rfl

theorem seedEntropy : Statement .seedEntropy := rfl

theorem step : Statement .step := rfl

end Sys2Proof.Laws.EncodeWellFormed
end

