-- ==== Sys2Proof/Tests/Slice0.lean ====
section
/-! SUPPORT. The model's own tests, their expected results taken from spec/30_encoding.md R55, the examples of the
commands' rules and spec/95_test_vectors.md; and for each obligation with hypotheses, values that meet them. -/

namespace Sys2Proof.Tests

open Sys2Proof.Machine Sys2Proof.Safety

/-! ### Helpers -/

/-- An unseeded machine with nothing in its ports; its register values stand for no reset. -/
def blank : State where
  state := ⟨0, 0, 0, 0⟩
  inc := ⟨0, 0, 0, 0⟩
  mulLo := 0
  mulHi := 0
  seeded := false
  pending := []
  responses := []
  entropyIn := []
  entropyRequests := 0
  draws := 0

/-- A seeded machine. -/
def engine (st inc : Lanes Word64) : State := construct st inc blank

/-- What a next state shows, `none` for a stop. -/
def seen {σ α : Type} (f : σ → α) (o : Host.Outcome σ Fault Refusal) : Option α :=
  match o with
  | .next s => some (f s)
  | .fault _ => none
  | .refused _ => none

/-- The bytes n, n+1, …, 32 of them (vector SE1). -/
def blockFrom (n : Nat) : List Byte := (List.range 32).map fun k => BitVec.ofNat 8 (n + k)

/-- The engine SE1 leaves, without its response. -/
def se1 : State :=
  engine ⟨0x0706050403020100, 0x0F0E0D0C0B0A0908, 0x1716151413121110, 0x1F1E1D1C1B1A1918⟩
    ⟨0x2726252423222120, 0x2F2E2D2C2B2A2928, 0x3736353433323130, 0x3F3E3D3C3B3A3938⟩

/-! ### WellFormed: an ill-formed term for each check -/

theorem test_wellFormed_refuses_reserved_bits : (Transaction.mk 0x00000105#32 []).rsvdZero = false := by decide

theorem test_wellFormed_refuses_reserved_opcode : (Transaction.mk 0x00000006#32 []).opcAssigned = false := by decide

theorem test_wellFormed_refuses_wrong_length :
    (Transaction.mk 0x00000003#32 (List.replicate 15 0)).lengthRight = false := by decide

theorem test_wellFormed_accepts_every_command : (Instr.wellFormed .step && (encode .step).wellFormed) = true := by decide

theorem test_assembler_refuses_wide_literal :
    (AsmLine.rotr ⟨0x100000000, 0, 0, 0⟩ ⟨0, 0, 0, 0⟩).wellFormed = false := by decide

/-! ### Decode: words written out from R43, R45, R46 -/

/-- Program 4, line 1. -/
theorem test_decode_wmul :
    decode ⟨0x00000001#32, [0x00000001, 0x00000000, 0xFFFFFFFF, 0xFFFFFFFF, 0x00000001, 0x00000001, 0x9ABCDEF0,
        0x12345678, 0x4C957F2D, 0x5851F42D, 0xFFFFFFFF, 0xFFFFFFFF, 0x00000001, 0x00000001, 0x87654321, 0x0FEDCBA9]⟩ =
      .ok (.wmul ⟨1, 0xFFFFFFFFFFFFFFFF, 0x100000001, 0x123456789ABCDEF0⟩
        ⟨0x5851F42D4C957F2D, 0xFFFFFFFFFFFFFFFF, 0x100000001, 0x0FEDCBA987654321⟩) := by decide

/-- Program 4, line 2. -/
theorem test_decode_rotr :
    decode ⟨0b00000000000000000000000000000010#32,
        [0x12345678, 0x12345678, 0x80000001, 0xDEADBEEF, 0, 4, 1, 8]⟩ =
      .ok (.rotr ⟨0x12345678, 0x12345678, 0x80000001, 0xDEADBEEF⟩ ⟨0, 4, 1, 8⟩) := by decide

/-- Program 2, line 1. -/
theorem test_decode_seed :
    decode ⟨0b00000000000000000000000000000011#32,
        [0x2C2E03F8, 0x185706B8, 0, 0, 1, 0, 0xFFFFFFFF, 0xFFFFFFFF, 0x6D, 0, 0, 0, 0, 0, 0x4C957F2D, 0x5851F42D]⟩ =
      .ok (.seed ⟨0x185706B82C2E03F8, 0, 1, 0xFFFFFFFFFFFFFFFF⟩ ⟨109, 0, 0, 0x5851F42D4C957F2D⟩) := by decide

theorem test_decode_seedEntropy : decode ⟨0b00000000000000000000000000000100#32, []⟩ = .ok .seedEntropy := by decide

theorem test_decode_step : decode ⟨0b00000000000000000000000000000101#32, []⟩ = .ok .step := by decide

/-- Vectors X1 to X7. -/
theorem test_decode_illegal :
    [decode ⟨0x00000000#32, []⟩, decode ⟨0x00000006#32, []⟩, decode ⟨0x000000FF#32, []⟩, decode ⟨0x00000105#32, []⟩,
      decode ⟨0x00000005#32, [0]⟩, decode ⟨0x00000001#32, List.replicate 15 0⟩, decode ⟨0x00000004#32, [0]⟩] =
    [.error .reservedOpcode, .error .reservedOpcode, .error .reservedOpcode, .error .reservedBits,
      .error .wrongLength, .error .wrongLength, .error .wrongLength] := by decide

/-- The rows of spec/opcode_table.json; the payload bits the table does not give are 0. -/
theorem test_table_words :
    (List.range 7).map (decodeTableWord 32) =
      [none, some (.wmul ⟨0, 0, 0, 0⟩ ⟨0, 0, 0, 0⟩), some (.rotr ⟨0, 0, 0, 0⟩ ⟨0, 0, 0, 0⟩),
        some (.seed ⟨0, 0, 0, 0⟩ ⟨0, 0, 0, 0⟩), some .seedEntropy, some .step, none] := by decide

/-- A word issued after reset is the next thing the machine performs (Program 4, line 3: STEP is ERR_UNSEEDED). -/
theorem test_fetchWord_runs_first :
    seen (fun s => s.responses) (step (State.reset.withFetchWord 32 5)) = some [⟨.errUnseeded, []⟩] := by decide

/-! ### The commands -/

/-- The example of R60. -/
theorem test_wmul_example :
    seen (fun s => s.responses)
        (exec (.wmul ⟨1, 0xFFFFFFFFFFFFFFFF, 0x100000001, 0x123456789ABCDEF0⟩
          ⟨0x5851F42D4C957F2D, 0xFFFFFFFFFFFFFFFF, 0x100000001, 0x0FEDCBA987654321⟩) blank) =
      some [⟨.ok, [0x4C957F2D, 0x5851F42D, 1, 0, 1, 2, 0xE5618CF0, 0x2236D88F]⟩] := by decide

/-- Vectors M7, M9, M10, M13. -/
theorem test_wmul_wraps :
    wmul ⟨0x5851F42D4C957F2D, 0x8000000000000000, 3, 0xFFFFFFFFFFFFFFFF⟩ ⟨0x4C957F2D, 2, 0, 0x4C957F2D⟩
        ⟨0x5851F42D, 0, 0x80000000, 0x5851F42D⟩ =
      ⟨0x685F98A2018FADE9, 0, 0x8000000000000000, 0xA7AE0BD2B36A80D3⟩ := by decide

/-- The example of R65. -/
theorem test_rotr_example :
    seen (fun s => (s.responses, s.draws))
        (exec (.rotr ⟨0x12345678, 0x12345678, 0x80000001, 0xDEADBEEF⟩ ⟨0, 4, 1, 8⟩) blank) =
      some ([⟨.ok, [0x12345678, 0x81234567, 0xC0000000, 0xEFDEADBE]⟩], 0) := by decide

/-- Vectors T4, T8 beside two lanes of 32 and more (T11): those have no expected value, the others are unaffected. -/
theorem test_rotr_other_lanes :
    seen (fun s => s.responses.map fun r => (r.status, r.data[0]?, r.data[3]?))
        (exec (.rotr ⟨0x12345678, 5, 6, 1⟩ ⟨31, 32, 0xFFFFFFFF, 31⟩) blank) =
      some [(.ok, some 0x2468ACF0, some 2)] := by decide

/-- Vectors P3, P4, P6, P8 of the output permutation. -/
theorem test_perm_vectors :
    [perm 0x5851F42D4C957F2E, perm 0x0800000000000000, perm 0xFFFFFFFFFFFFFFFF, perm 0xF800000000000000] =
      [0xE4C14788, 0x00002000, 0xFFF00001, 0x000F8000] := by decide

/-- Vector S2, the first row. -/
theorem test_step_mixed_lanes :
    seen (fun s => (s.responses, s.state))
        (exec .step (engine ⟨0x185706B82C2E03F8, 0, 1, 0xFFFFFFFFFFFFFFFF⟩ ⟨0x6D, 1, 1, 0x5851F42D4C957F2D⟩)) =
      some ([⟨.ok, [0xA15C02B7, 0, 0, 0xFFF00001]⟩], ⟨0x2B47FED88766BB05, 1, 0x5851F42D4C957F2E, 0⟩) := by decide

/-- Vector S1. -/
theorem test_step_unseeded : seen (fun s => s) (exec .step blank) = some { blank with responses := [⟨.errUnseeded, []⟩] } := by
  decide

/-- Vector SD2; negative seeds in two's complement. -/
theorem test_seed_vector :
    seen (fun s => (s.state, s.inc, s.mulLo, s.mulHi, s.seeded))
        (exec (.seed ⟨-1, 0, 0, 0⟩ ⟨-2, 2, 1, 0xFFFFFFFFFFFFFFFE⟩) blank) =
      some (⟨0xFFFFFFFFFFFFFFFF, 0, 0, 0⟩, ⟨0xFFFFFFFFFFFFFFFF, 3, 1, 0xFFFFFFFFFFFFFFFF⟩, 0x4C957F2D, 0x5851F42D,
        true) := by decide

/-- Vector SE1. -/
theorem test_seedEntropy_two_blocks :
    seen (fun s => (s.state, s.inc, s.seeded, s.entropyRequests, s.responses))
        (exec .seedEntropy { blank with entropyIn := [.bytes (blockFrom 0), .bytes (blockFrom 0x20)] }) =
      some (⟨0x0706050403020100, 0x0F0E0D0C0B0A0908, 0x1716151413121110, 0x1F1E1D1C1B1A1918⟩,
        ⟨0x2726252423222121, 0x2F2E2D2C2B2A2929, 0x3736353433323131, 0x3F3E3D3C3B3A3939⟩, true, 2, [⟨.ok, []⟩]) := by
  decide

/-- Vectors SE4 (a first answer of 31 bytes) and SE3 (a second answer Fail), on a seeded engine. -/
theorem test_seedEntropy_fails :
    [[.bytes ((blockFrom 0).take 31)], [.bytes (blockFrom 0), .fail]].map (fun answers =>
      seen (fun s => (s.state, s.seeded, s.entropyRequests, s.responses))
        (exec .seedEntropy { se1 with entropyIn := answers })) =
      [some (⟨0x0706050403020100, 0x0F0E0D0C0B0A0908, 0x1716151413121110, 0x1F1E1D1C1B1A1918⟩, false, 1,
          [⟨.errEntropy, []⟩]),
        some (⟨0x0706050403020100, 0x0F0E0D0C0B0A0908, 0x1716151413121110, 0x1F1E1D1C1B1A1918⟩, false, 2,
          [⟨.errEntropy, []⟩])] := by decide

/-- Vectors AD2 and AD3c. -/
theorem test_adapter_vectors :
    seen (fun q => q.1) (nextU64 se1) = some (.ok 0xF0E0ECF8E0C098B0) ∧
      seen (fun f => (f.result, f.dest)) (fillBytes (List.replicate 15 0) se1) =
        some (.ok (), [0xb0, 0x98, 0xc0, 0xe0, 0xf8, 0xec, 0xe0, 0xf0, 0x8c, 0x86, 0xb0, 0xb8, 0x6e, 0x6b, 0x78]) := by
  decide

/-- R53: a comment, hexadecimal and negative literals, RAW, and a literal too wide for its operand. -/
theorem test_assembler_text :
    assemble "STEP ; advance\nRAW 0x00000105, -1\n".toList = some [⟨5, []⟩, ⟨0x105, [0xFFFFFFFF]⟩] ∧
      assemble "RAW 4294967296".toList = none := by decide

/-- R55: the line of the ROTR example; 123 and 125 are the braces. -/
theorem test_assembler_rotr :
    assembleText ("ROTR ".toList ++ Char.ofNat 123 :: "0x12345678, 0x12345678, 0x80000001, 0xDEADBEEF".toList ++
        Char.ofNat 125 :: ", ".toList ++ Char.ofNat 123 :: "0, 4, 1, 8".toList ++ [Char.ofNat 125]) =
      some [⟨2, [0x12345678, 0x12345678, 0x80000001, 0xDEADBEEF, 0, 4, 1, 8]⟩] := by decide

/-! ### Witnesses: values that meet the hypotheses of the obligations -/

/-- A machine with one command issued. -/
def issued (i : Instr) (s : State) : State := issueEvent (.command (encode i)) s

theorem witness_IllegalTransactionAnsweredWithoutEffect :
    (issueEvent (.command ⟨6, []⟩) blank).pending = .command ⟨6, []⟩ :: [] ∧
      (Transaction.mk 6 []).wellFormed = false ∧ (issued .step blank).pending = .command (encode .step) :: [] ∧
      (encode .step).wellFormed = true := by decide

theorem witness_StepRunsTheDecodedCommand :
    (issued .step blank).pending = .command (encode .step) :: [] ∧ decode (encode .step) = .ok .step := by decide

theorem witness_EventsTakenInOrder :
    step (issued .step blank) = .next (respondError .errUnseeded blank) := rfl

theorem witness_OneResponsePerCommand :
    (issued .step blank).pending = .command (encode .step) :: [] ∧
      step (issued .step blank) = .next (respondError .errUnseeded blank) := ⟨rfl, rfl⟩

theorem witness_StepStopsOnlyOnASilentSource_stuck :
    stuckOnEntropy (issued .seedEntropy { blank with entropyIn := [.silent] }) :=
  ⟨_, _, rfl, rfl, rfl⟩

theorem witness_StepStopsOnlyOnASilentSource_goesOn : goesOn (step blank) := ⟨_, rfl⟩

theorem witness_ResetClearsSeededWithoutResponse : (issueEvent .reset se1).pending = .reset :: [] := rfl

theorem witness_InterruptedCommandHasNoEffect :
    (issueEvent (.resetDuring (encode .seedEntropy) 1) se1).pending = .resetDuring (encode .seedEntropy) 1 :: [] ∧
      step { issueEvent (.resetDuring (encode .seedEntropy) 1) se1 with pending := .reset :: [] } =
        .next (applyReset se1) := ⟨rfl, rfl⟩

/-- A seeded engine meets the invariant. -/
theorem invariant_se1 : Invariant se1 :=
  ⟨fun _ => by decide, fun _ => by decide, fun _ h => absurd h (by simp [se1, engine, blank])⟩

theorem witness_EveryStepKeepsTheInvariant :
    Invariant se1 ∧ ∃ s', step (issued .step se1) = .next s' := ⟨invariant_se1, _, rfl⟩

theorem witness_SeedingForcesOddIncrements :
    (∃ s', exec (.seed ⟨0, 0, 0, 0⟩ ⟨0, 0, 0, 0⟩) blank = .next s') ∧
      (∃ s', exec .seedEntropy { blank with entropyIn := [.bytes (blockFrom 0), .bytes (blockFrom 0)] } = .next s' ∧
        s'.seeded = true) ∧
      ∃ s', exec .step blank = .next s' := ⟨⟨_, rfl⟩, ⟨_, rfl, by decide⟩, _, rfl⟩

theorem witness_SeededChangesOnlyBySeedingAndReset :
    (∃ s', step (issued (.seed ⟨0, 0, 0, 0⟩ ⟨0, 0, 0, 0⟩) blank) = .next s' ∧ blank.seeded = false ∧ s'.seeded = true) ∧
      ∃ s', step (issued .seedEntropy { se1 with entropyIn := [.fail] }) = .next s' ∧ se1.seeded = true ∧
        s'.seeded = false := ⟨⟨_, rfl, rfl, rfl⟩, _, rfl, rfl, rfl⟩

theorem witness_FrameOfEveryCommand :
    (∃ s', exec (.wmul ⟨0, 0, 0, 0⟩ ⟨0, 0, 0, 0⟩) blank = .next s') ∧ (∃ s', exec .step se1 = .next s') ∧
      ∃ s', exec .seedEntropy { se1 with entropyIn := [.fail] } = .next s' ∧ s'.seeded = false :=
  ⟨⟨_, rfl⟩, ⟨_, rfl⟩, _, rfl, rfl⟩

theorem witness_ErrorsArePrecise :
    (∃ s', step (issued .step blank) = .next s' ∧ s'.responses = blank.responses ++ [⟨.errUnseeded, []⟩]) ∧
      ∃ s', step (issued .seedEntropy { se1 with entropyIn := [.fail] }) = .next s' ∧
        s'.responses = se1.responses ++ [⟨.errEntropy, []⟩] := ⟨⟨_, rfl, rfl⟩, _, rfl, rfl⟩

theorem witness_StatusesOfEachCommand :
    ∃ s', exec .step blank = .next s' ∧ s'.responses = blank.responses ++ [⟨.errUnseeded, []⟩] := ⟨_, rfl, rfl⟩

theorem witness_DecodeComesBeforeTheSeededCheck :
    (issueEvent (.command ⟨0x00000105#32, []⟩) se1).pending = .command ⟨0x00000105#32, []⟩ :: [] := rfl

/-- Both ends of the range of amounts: 0 and 31. -/
theorem witness_RotateValueLaw :
    (0 ≤ 31 ∧ 0 < 32) ∧ (31 ≤ 31 ∧ 31 < 32) ∧ ((Lanes.mk 0#32 31#32 32#32 33#32).get 1).toNat ≤ 31 := by decide

theorem witness_RotrAnswersTheRotates :
    ∀ i : Fin 4, ((Lanes.mk 0#32 31#32 1#32 30#32).get i).toNat ≤ 31 := by decide

/-- The two clauses meet at 31 and 32 and have no amount in common. -/
theorem witness_RotrRunsForEveryAmount :
    (31#32).toNat ≤ 31 ∧ 32 ≤ (32#32).toNat ∧ ∀ n : Nat, ¬ (n ≤ 31 ∧ 32 ≤ n) :=
  ⟨by decide, by decide, fun _ h => by omega⟩

theorem witness_StepBeforeSeedingIsAnsweredUnseeded : blank.seeded = false := rfl

theorem witness_StepAdvancesAndOutputs : se1.seeded = true := rfl

theorem witness_StepUpdateLaw : se1.seeded = true ∧ fixedMultiplier se1 := ⟨rfl, invariant_se1.2.1⟩

/-- Vectors P1 and P2 differ in bit 0 alone; the bit positions at both ends of each clause. -/
theorem witness_PermutationBitByBit :
    (0#64).extractLsb' 27 37 = (1#64).extractLsb' 27 37 ∧ (46 ≤ 46 ∧ 46 < 64) ∧ (46 ≤ 63 ∧ 63 < 64) ∧ 0 < 46 ∧ 45 < 46 ∧
      0 < 32 ∧ 31 < 32 := by decide

theorem witness_OutputsComeFromTheOldState :
    se1.seeded = true ∧ (engine se1.state ⟨1, 1, 1, 1⟩).seeded = true ∧
      se1.state = (engine se1.state ⟨1, 1, 1, 1⟩).state := ⟨rfl, rfl, rfl⟩

theorem witness_SeededEnginesAreDeterministic :
    (blank.entropyIn = se1.entropyIn ∧ blank.entropyRequests = se1.entropyRequests ∧ blank.draws = se1.draws ∧
      ∃ s', deliverAll [.command (encode (.seed se1.state se1.inc)), .command (encode .step)] blank = .next s') ∧
      (se1.state = { se1 with draws := 1 }.state ∧ se1.seeded = { se1 with draws := 1 }.seeded) :=
  ⟨⟨rfl, rfl, rfl, _, rfl⟩, rfl, rfl⟩

/-- Vector S4: two seeds that differ in lane 2 alone. -/
theorem witness_LanesAreIndependent :
    se1.state.get 0 = { se1.state with l2 := 0x1716141413121110 }.get 0 ∧ se1.inc.get 0 = se1.inc.get 0 := ⟨rfl, rfl⟩

theorem witness_SeedEntropyConstructsFromTwoBlocks :
    { blank with entropyIn := [.bytes (blockFrom 0), .bytes (blockFrom 32)] }.entropyIn =
        .bytes (blockFrom 0) :: .bytes (blockFrom 32) :: [] ∧
      (blockFrom 0).length = 32 ∧ (blockFrom 32).length = 32 := ⟨rfl, rfl, rfl⟩

/-- Fail, and a short answer at the boundary, 31 bytes; as the first answer and as the second. -/
theorem witness_EntropyFailureIsReported :
    (∃ b : List Byte, b.length = 31 ∧ b.length < 32) ∧
      { blank with entropyIn := [.fail] }.entropyIn = .fail :: [] ∧ (blockFrom 0).length = 32 ∧
      { blank with entropyIn := [.bytes (blockFrom 0), .fail] }.entropyIn = .bytes (blockFrom 0) :: .fail :: [] :=
  ⟨⟨(blockFrom 0).take 31, rfl, by decide⟩, rfl, rfl, rfl⟩

/-- With no answer listed the oracle answers. -/
theorem witness_SeedEntropyCompletesWhenAnswered :
    entropyWaits blank = false ∧ entropyWaits { blank with entropyIn := [.fail, .silent] } = false := by decide

theorem witness_SeedEntropyStuckOnASilentSource :
    entropyWaits { blank with entropyIn := [.silent] } = true ∧
      entropyWaits { blank with entropyIn := [.bytes (blockFrom 0), .silent] } = true := by decide

theorem witness_ReseedingReplacesEverything :
    blank.entropyIn = se1.entropyIn ∧ blank.entropyRequests = se1.entropyRequests ∧
      ∃ s', exec (.seed ⟨0, 0, 0, 0⟩ ⟨0, 0, 0, 0⟩) blank = .next s' ∧ s'.seeded = true := ⟨rfl, rfl, _, rfl, rfl⟩

theorem witness_ByteAndPairViewsAgree : 0 < 4 ∧ 3 < 4 := by decide

theorem witness_NextU32ReturnsLaneZero : se1.seeded = true := rfl

theorem witness_NextU64ReturnsLanesOneAndZero : se1.seeded = true := rfl

theorem witness_FillBytesIsExact : se1.seeded = true := rfl

theorem witness_AdapterReportsTheFailingStatus : blank.seeded = false ∧ ([0] : List Byte) ≠ [] := by decide

/-- Both ends of the range of a 64-bit literal. -/
theorem witness_FittingLiteralsKeepTheirValue :
    literalFits 64 0xFFFFFFFFFFFFFFFF = true ∧ literalFits 64 (-0x8000000000000000) = true ∧
      literalFits 64 0x10000000000000000 = false ∧ literalFits 64 (-0x8000000000000001) = false := by decide

theorem witness_AssembledLinesDecodeToTheirCommand :
    ∃ t, assembleLine (.raw 0x105 []) = some t ∧ assembleLine .step = some (encode .step) := ⟨_, rfl, rfl⟩

theorem witness_InstancesCommute :
    (0 : Nat) ≠ 1 ∧ ∃ a b, stepOf 0 [issued .step blank, issued .step se1] = .next a ∧ stepOf 1 a = .next b :=
  ⟨by decide, _, _, rfl, rfl⟩

end Sys2Proof.Tests
end

/-! SUPPORT. What the decoder accepts is the encoding of what it answers (spec/30_encoding.md R43, R45, R46, R49). -/

namespace Sys2Proof

/-- What an accepted transaction looks like: no reserved bit, an assigned opcode, its payload length, its operands. -/
theorem decode_eq_ok {t : Transaction} {i : Instr} (h : decode t = .ok i) :
    rsvdField t.command = 0 ∧ ∃ o, opcodeOf (opcField t.command) = some o ∧ t.payload.length = payloadWords o ∧
      i = operandsOf o t.payload := by
  rw [decode] at h
  split at h
  · cases h
  · rename_i hrsvd
    split at h
    · cases h
    · rename_i o ho
      split at h
      · cases h
      · rename_i hlen
        cases h
        exact ⟨not_not.mp hrsvd, o, ho, not_not.mp hlen, rfl⟩

/-- A command word as a number, from its two fields. -/
theorem toNat_command (c : Word32) : c.toNat = 256 * rsvdField c + opcField c := by
  have hlt := c.isLt
  simp only [rsvdField, opcField, BitVec.extractLsb'_toNat, Nat.shiftRight_eq_div_pow]
  omega

/-- Each assigned opcode has one OPC value, the number of its full command word (R45). -/
theorem eq_toNat_commandWord {n : Nat} {o : Opcode} (h : opcodeOf n = some o) : n = (commandWord o).toNat := by
  unfold opcodeOf at h
  split at h <;> cases h <;> rfl

/-- With the reserved bits 0, the opcode fixes the whole command word. -/
theorem eq_commandWord {c : Word32} {o : Opcode} (hrsvd : rsvdField c = 0) (ho : opcodeOf (opcField c) = some o) :
    c = commandWord o := by
  apply BitVec.eq_of_toNat_eq
  rw [toNat_command, hrsvd, Nat.mul_zero, Nat.zero_add, eq_toNat_commandWord ho]

theorem words64_lanes64At (p : List Word32) (k : Nat) :
    words64 (lanes64At p k) = (List.range' k 8).map (payloadWord p) := by
  simp [words64, lanes64At, Lanes.ofFn, List.range']

theorem words32_lanes32At (p : List Word32) (k : Nat) :
    words32 (lanes32At p k) = (List.range' k 4).map (payloadWord p) := rfl

/-- Reading every payload word in order gives the payload. -/
theorem map_payloadWord {p : List Word32} {n : Nat} (h : p.length = n) :
    (List.range' 0 n).map (payloadWord p) = p := by
  subst h
  apply List.ext_getElem (by simp)
  intro k hk hk'
  simp [payloadWord, hk']

/-- The operands keep every payload word (R46, R48). -/
theorem payloadOf_operandsOf {o : Opcode} {p : List Word32} (h : p.length = payloadWords o) :
    payloadOf (operandsOf o p) = p := by
  cases o with
  | wmul | seed =>
    simp only [operandsOf, payloadOf, words64_lanes64At, ← List.map_append]
    exact map_payloadWord h
  | rotr =>
    simp only [operandsOf, payloadOf, words32_lanes32At, ← List.map_append]
    exact map_payloadWord h
  | seedEntropy | step => exact (List.length_eq_zero_iff.mp h).symm

@[simp] theorem opcodeOfInstr_operandsOf (o : Opcode) (p : List Word32) : opcodeOfInstr (operandsOf o p) = o := by
  cases o <;> rfl

/-- A transaction decodes to an instruction only if it is that instruction's encoding. -/
theorem eq_encode_of_decode {t : Transaction} {i : Instr} (h : decode t = .ok i) : t = encode i := by
  obtain ⟨hrsvd, o, ho, hlen, rfl⟩ := decode_eq_ok h
  rw [encode, opcodeOfInstr_operandsOf, payloadOf_operandsOf hlen, ← eq_commandWord hrsvd ho]

end Sys2Proof

/-! SUPPORT. What each command that goes on leaves unchanged, and what can change SEEDED. -/

namespace Sys2Proof.Machine

/-- With nothing issued a step changes nothing (spec/70_reset_and_hazards.md R107, log 2). -/
theorem step_of_pending_nil {s : State} (h : s.pending = []) : step s = .next s := by
  rw [step, takeEvent_nil h]
  rfl

section Frame

variable {i : Instr} {s s' : State}

/-- SEED_ENTROPY that goes on fails, or constructs from two blocks; its requests touch the entropy port only. -/
theorem exec_seedEntropy_cases (h : exec .seedEntropy s = .next s') :
    (∃ rest n, s' = seedEntropyFails { s with entropyIn := rest, entropyRequests := n }) ∨
    (∃ a b rest n, s' = respond .ok [] (construct (lanesOfBlock a) (lanesOfBlock b)
      { s with entropyIn := rest, entropyRequests := n })) := by
  simpa using exec_cases h

/-- STEP answers ERR_UNSEEDED, or writes STATE and answers the outputs. -/
theorem exec_step_cases (h : exec .step s = .next s') :
    (s.seeded = false ∧ s' = respondError .errUnseeded s) ∨
    (s.seeded = true ∧ s' = respond .ok (words32 (stepOutputs s.state)) { s with state := stepState s }) := by
  simpa using exec_cases h

/-- A command takes nothing from what the host has issued. -/
theorem exec_pending (h : exec i s = .next s') : s'.pending = s.pending := by
  cases i with
  | wmul | rotr | seed => cases h; rfl
  | seedEntropy => obtain ⟨_, _, rfl⟩ | ⟨_, _, _, _, rfl⟩ := exec_seedEntropy_cases h <;> rfl
  | step => obtain ⟨-, rfl⟩ | ⟨-, rfl⟩ := exec_step_cases h <;> rfl

/-- A command answers with one response (spec/30_encoding.md R44). -/
theorem exec_responses (h : exec i s = .next s') : ∃ r, s'.responses = s.responses ++ [r] := by
  cases i with
  | wmul | rotr | seed => cases h; exact ⟨_, rfl⟩
  | seedEntropy => obtain ⟨_, _, rfl⟩ | ⟨_, _, _, _, rfl⟩ := exec_seedEntropy_cases h <;> exact ⟨_, rfl⟩
  | step => obtain ⟨-, rfl⟩ | ⟨-, rfl⟩ := exec_step_cases h <;> exact ⟨_, rfl⟩

/-- Only SEED_ENTROPY uses the entropy port (spec/20_memory.md R36). -/
theorem exec_entropyPort (h : exec i s = .next s') (hi : i ≠ .seedEntropy) :
    s'.entropyIn = s.entropyIn ∧ s'.entropyRequests = s.entropyRequests := by
  cases i with
  | wmul | rotr | seed => cases h; exact ⟨rfl, rfl⟩
  | seedEntropy => exact absurd rfl hi
  | step => obtain ⟨-, rfl⟩ | ⟨-, rfl⟩ := exec_step_cases h <;> exact ⟨rfl, rfl⟩

/-- Only ROTR draws free values (log 7). -/
theorem exec_draws (h : exec i s = .next s') (hi : ∀ v r, i ≠ .rotr v r) : s'.draws = s.draws := by
  cases i with
  | wmul | seed => cases h; rfl
  | rotr v r => exact absurd rfl (hi v r)
  | seedEntropy => obtain ⟨_, _, rfl⟩ | ⟨_, _, _, _, rfl⟩ := exec_seedEntropy_cases h <;> rfl
  | step => obtain ⟨-, rfl⟩ | ⟨-, rfl⟩ := exec_step_cases h <;> rfl

/-- WMUL and ROTR write no register (spec/10_state.md R16). -/
theorem exec_registers_of_wmul_or_rotr (h : exec i s = .next s')
    (hi : (∃ x y, i = .wmul x y) ∨ ∃ v r, i = .rotr v r) :
    s'.state = s.state ∧ s'.inc = s.inc ∧ s'.mulLo = s.mulLo ∧ s'.mulHi = s.mulHi ∧ s'.seeded = s.seeded := by
  obtain ⟨x, y, rfl⟩ | ⟨v, r, rfl⟩ := hi <;> cases h <;> exact ⟨rfl, rfl, rfl, rfl, rfl⟩

/-- STEP writes STATE alone (spec/10_state.md R16). -/
theorem exec_registers_of_step (h : exec .step s = .next s') :
    s'.inc = s.inc ∧ s'.mulLo = s.mulLo ∧ s'.mulHi = s.mulHi ∧ s'.seeded = s.seeded := by
  obtain ⟨-, rfl⟩ | ⟨-, rfl⟩ := exec_step_cases h <;> exact ⟨rfl, rfl, rfl, rfl⟩

/-- A SEED_ENTROPY that leaves SEEDED = 0 has failed, and writes no other register (spec/43_seeding.md R79, log 13). -/
theorem exec_registers_of_failed_seedEntropy (h : exec .seedEntropy s = .next s') (hs : s'.seeded = false) :
    s'.state = s.state ∧ s'.inc = s.inc ∧ s'.mulLo = s.mulLo ∧ s'.mulHi = s.mulHi := by
  obtain ⟨_, _, rfl⟩ | ⟨_, _, _, _, rfl⟩ := exec_seedEntropy_cases h
  · exact ⟨rfl, rfl, rfl, rfl⟩
  · cases hs

/-- What a command does to SEEDED: nothing, or set it by a seeding answered OK, or clear it by a SEED_ENTROPY answered
ERR_ENTROPY (spec/10_state.md R20). -/
theorem exec_seeded_cases (h : exec i s = .next s') :
    s'.seeded = s.seeded ∨
    (s'.seeded = true ∧ s'.responses = s.responses ++ [⟨.ok, []⟩] ∧
      ((∃ st inc, i = .seed st inc) ∨ i = .seedEntropy)) ∨
    (s'.seeded = false ∧ s'.responses = s.responses ++ [⟨.errEntropy, []⟩] ∧ i = .seedEntropy) := by
  cases i with
  | wmul | rotr => cases h; exact .inl rfl
  | seed st inc => cases h; exact .inr (.inl ⟨rfl, rfl, .inl ⟨st, inc, rfl⟩⟩)
  | seedEntropy =>
    obtain ⟨_, _, rfl⟩ | ⟨_, _, _, _, rfl⟩ := exec_seedEntropy_cases h
    · exact .inr (.inr ⟨rfl, rfl, rfl⟩)
    · exact .inr (.inl ⟨rfl, rfl, .inr rfl⟩)
  | step => exact .inl (exec_registers_of_step h).2.2.2

/-- What a step does to SEEDED: nothing, or set it by a seeding answered OK, or clear it by a reset or by a SEED_ENTROPY
answered ERR_ENTROPY (spec/10_state.md R20). -/
theorem step_seeded_cases (h : step s = .next s') :
    s'.seeded = s.seeded ∨
    (s'.seeded = true ∧
      ∃ t rest, s.pending = .command t :: rest ∧ s'.responses = s.responses ++ [⟨.ok, []⟩] ∧
        ((∃ st inc, t = encode (.seed st inc)) ∨ t = encode .seedEntropy)) ∨
    (s'.seeded = false ∧
      ((∃ rest, s.pending = .reset :: rest) ∨ (∃ t n rest, s.pending = .resetDuring t n :: rest) ∨
        ∃ rest, s.pending = .command (encode .seedEntropy) :: rest ∧
          s'.responses = s.responses ++ [⟨.errEntropy, []⟩])) := by
  obtain ⟨-, rfl⟩ | ⟨t, rest, i, hp, hdec, hexec⟩ | ⟨t, rest, why, -, -, rfl⟩ | ⟨rest, hp, rfl⟩ |
    ⟨t, n, rest, hp, rfl⟩ := step_cases h
  · exact .inl rfl
  · obtain rfl := eq_encode_of_decode hdec
    obtain hsame | ⟨hset, hresp, ⟨st, inc, rfl⟩ | rfl⟩ | ⟨hclear, hresp, rfl⟩ := exec_seeded_cases hexec
    · exact .inl hsame
    · exact .inr (.inl ⟨hset, _, rest, hp, hresp, .inl ⟨st, inc, rfl⟩⟩)
    · exact .inr (.inl ⟨hset, _, rest, hp, hresp, .inr rfl⟩)
    · exact .inr (.inr ⟨hclear, .inr (.inr ⟨rest, hp, hresp⟩)⟩)
  · exact .inl rfl
  · exact .inr (.inr ⟨rfl, .inl ⟨rest, hp⟩⟩)
  · exact .inr (.inr ⟨rfl, .inr (.inl ⟨t, n, rest, hp⟩)⟩)

end Frame

end Sys2Proof.Machine

/-! SUPPORT. The invariant of Safety.lean: what each shared operation owes it, then each command, then each step. -/

namespace Sys2Proof.Safety

open Sys2Proof.Machine

theorem lawfulResponse_ok {d : List Word32} (h : d.length = 0 ∨ d.length = 4 ∨ d.length = 8) :
    lawfulResponse ⟨.ok, d⟩ := ⟨fun _ => rfl, h⟩

theorem lawfulResponse_no_data (st : Status) : lawfulResponse ⟨st, []⟩ := ⟨fun h => absurd rfl h, .inl rfl⟩

variable {s s' : State}

/-- The registers owe nothing while SEEDED = 0 (spec/10_state.md R18, R19). -/
theorem invariant_of_unseeded (hs : s.seeded = false) (hr : ∀ r ∈ s.responses, lawfulResponse r) : Invariant s :=
  ⟨fun h => absurd h (by simp [hs]), fun h => absurd h (by simp [hs]), hr⟩

/-- Construction needs nothing of the registers before: it makes every increment odd and writes both halves of M. -/
theorem invariant_construct (st inc : Lanes Word64) (hr : ∀ r ∈ s.responses, lawfulResponse r) :
    Invariant (construct st inc s) :=
  ⟨fun _ k => by simp, fun _ => u64_config_mul, hr⟩

theorem invariant_respond {st : Status} {d : List Word32} (hI : Invariant s) (hd : lawfulResponse ⟨st, d⟩) :
    Invariant (respond st d s) := by
  obtain ⟨hodd, hmul, hr⟩ := hI
  refine ⟨hodd, hmul, ?_⟩
  simp only [respond_responses, List.forall_mem_append, List.forall_mem_singleton]
  exact ⟨hr, hd⟩

theorem exec_keeps_invariant {i : Instr} (hI : Invariant s) (h : exec i s = .next s') : Invariant s' := by
  have hr : ∀ r ∈ s.responses, lawfulResponse r := hI.2.2
  obtain ⟨d, n, hd, -, rfl⟩ | ⟨st, inc, -, rfl⟩ | ⟨rest, n, -, rfl⟩ | ⟨a, b, rest, n, -, rfl⟩ | ⟨-, -, rfl⟩ |
    ⟨-, -, rfl⟩ := exec_cases h
  · have hn : Invariant { s with draws := n } := hI
    exact invariant_respond hn (lawfulResponse_ok (by omega))
  · exact invariant_respond (invariant_construct st inc hr) (lawfulResponse_no_data _)
  · exact invariant_respond (invariant_of_unseeded rfl hr) (lawfulResponse_no_data _)
  · exact invariant_respond (invariant_construct _ _ hr) (lawfulResponse_no_data _)
  · exact invariant_respond hI (lawfulResponse_no_data _)
  · have hn : Invariant { s with state := stepState s } := hI
    exact invariant_respond hn (lawfulResponse_ok (.inr (.inl (length_words32 _))))

theorem step_keeps_invariant (hI : Invariant s) (h : step s = .next s') : Invariant s' := by
  have hp : ∀ rest, Invariant { s with pending := rest } := fun _ => hI
  have hr : ∀ r ∈ s.responses, lawfulResponse r := hI.2.2
  obtain ⟨-, rfl⟩ | ⟨t, rest, i, -, -, hexec⟩ | ⟨t, rest, why, -, -, rfl⟩ | ⟨rest, -, rfl⟩ | ⟨t, n, rest, -, rfl⟩ :=
    step_cases h
  · exact hI
  · exact exec_keeps_invariant (hp rest) hexec
  · exact invariant_respond (hp rest) (lawfulResponse_no_data _)
  · exact invariant_of_unseeded rfl hr
  · exact invariant_of_unseeded rfl hr

end Sys2Proof.Safety

/-! PROOFS. The obligations about the state, its invariant and what a command leaves unchanged. -/

namespace Sys2Proof.Proofs

open Sys2Proof.Machine Sys2Proof.Safety

/-- Settles O14, by the cases of a step and, for a command, of `exec`. -/
theorem everyStepKeepsTheInvariant : Obligations.EveryStepKeepsTheInvariant :=
  fun _ _ => step_keeps_invariant

/-- Settles O16, from the three things a step can do to SEEDED: each rules out the change that is not its own. -/
theorem seededChangesOnlyBySeedingAndReset : Obligations.SeededChangesOnlyBySeedingAndReset := by
  intro s s' h
  obtain hsame | ⟨hset, hseeding⟩ | ⟨hclear, hcause⟩ := step_seeded_cases h
  · exact ⟨fun h0 h1 => by simp [hsame, h0] at h1, fun h1 h0 => by simp [hsame, h1] at h0⟩
  · exact ⟨fun _ _ => hseeding, by simp [hset]⟩
  · exact ⟨by simp [hclear], fun _ _ => hcause⟩

/-- Settles O17, one frame lemma of `exec` for each part. -/
theorem frameOfEveryCommand : Obligations.FrameOfEveryCommand := by
  intro i s s' h
  refine ⟨exec_pending h, exec_responses h, exec_entropyPort h, exec_draws h, exec_registers_of_wmul_or_rotr h, ?_, ?_⟩
  · rintro rfl
    exact exec_registers_of_step h
  · rintro rfl hs
    exact exec_registers_of_failed_seedEntropy h hs

/-- Settles O10: nothing is pending after reset, so the step is the idle one. -/
theorem resetLeavesUnseededAndWaiting : Obligations.ResetLeavesUnseededAndWaiting :=
  ⟨rfl, rfl, rfl, step_of_pending_nil rfl⟩

/-- Settles O13: after reset SEEDED = 0 and there is no response. -/
theorem invariantHoldsAtReset : Obligations.InvariantHoldsAtReset :=
  invariant_of_unseeded rfl (fun _ h => absurd h List.not_mem_nil)

end Sys2Proof.Proofs

/-! SUPPORT. What a step takes from the command port and adds to the response port (spec/20_memory.md R37, R38). -/

namespace Sys2Proof.Machine

variable {s s' : State}

/-- A decodable command that is next in line is performed on the state with it taken. -/
theorem step_of_command {t : Transaction} {rest : List PortEvent} {i : Instr} (hp : s.pending = .command t :: rest)
    (hd : decode t = .ok i) : step s = exec i { s with pending := rest } := by
  rw [step, takeEvent_cons hp]
  simp only [hd]

/-- A step takes the oldest event, and nothing when nothing is issued (log 2). -/
theorem step_pending (h : step s = .next s') : s'.pending = s.pending.tail := by
  obtain ⟨hp, rfl⟩ | ⟨t, rest, i, hp, -, hexec⟩ | ⟨t, rest, why, hp, -, rfl⟩ | ⟨rest, hp, rfl⟩ | ⟨t, n, rest, hp, rfl⟩ :=
    step_cases h
  · rw [hp, List.tail_nil]
  · rw [exec_pending hexec, hp, List.tail_cons]
  all_goals (rw [hp]; rfl)

/-- A step gives one response or none, after those already given. -/
theorem step_responses (h : step s = .next s') :
    s'.responses = s.responses ∨ ∃ r, s'.responses = s.responses ++ [r] := by
  obtain ⟨-, rfl⟩ | ⟨t, rest, i, -, -, hexec⟩ | ⟨t, rest, why, -, -, rfl⟩ | ⟨rest, -, rfl⟩ | ⟨t, n, rest, -, rfl⟩ :=
    step_cases h
  · exact .inl rfl
  · obtain ⟨r, hr⟩ := exec_responses hexec
    exact .inr ⟨r, hr⟩
  · exact .inr ⟨_, rfl⟩
  · exact .inl rfl
  · exact .inl rfl

end Sys2Proof.Machine

/-! SUPPORT. The bytes of an output word, and the words read back from them (spec/20_memory.md R33). -/

namespace Sys2Proof.Machine

/-- Byte k of word j stands at position 4j + k: sixteen positions, each by definition. -/
theorem getElem?_bytes16 (out : List Word32) {j k : Nat} (hj : j < 4) (hk : k < 4) :
    (bytes16 out)[4 * j + k]? = some ((out.getD j 0).extractLsb' (8 * k) 8) := by
  interval_cases j <;> interval_cases k <;> rfl

/-- A word as a number, from its bytes. -/
theorem toNat_eq_bytes (w : Word32) :
    w.toNat = (w.extractLsb' 0 8).toNat + ((w.extractLsb' 8 8).toNat + ((w.extractLsb' 16 8).toNat +
      (w.extractLsb' 24 8).toNat * 2 ^ 8) * 2 ^ 8) * 2 ^ 8 := by
  have hlt := w.isLt
  simp only [BitVec.extractLsb'_toNat, Nat.shiftRight_eq_div_pow]
  omega

/-- The eight bytes of two words, read little-endian, are the words again, the first one low. -/
theorem le64_bytes4_append (lo hi : Word32) : le64 (bytes4 lo ++ bytes4 hi) 0 = u64 hi lo := by
  apply BitVec.eq_of_toNat_eq
  rw [toNat_le64, toNat_u64, toNat_eq_bytes lo, toNat_eq_bytes hi]
  simp only [bytes4, List.cons_append, List.nil_append, List.getD_cons_zero, List.getD_cons_succ]
  omega

/-- Reading at k is reading at the start of what is left after k bytes. -/
theorem le64_drop (b : List Byte) (k : Nat) : le64 b k = le64 (b.drop k) 0 := by
  simp [le64, List.getD_eq_getElem?_getD]

end Sys2Proof.Machine

/-! SUPPORT. A step of one machine of a system (spec/20_memory.md R39). -/

namespace Sys2Proof.Machine

/-- A step of machine k writes entry k alone, with what that machine's own step answers; the write is void when the system
has no machine k. -/
theorem stepOf_eq_next {k : Nat} {sys a : List State} :
    stepOf k sys = .next a ↔ ∃ s', a = sys.set k s' ∧ ∀ s, sys[k]? = some s → step s = .next s' := by
  rcases hk : sys[k]? with _ | s
  · have hset : ∀ s', sys.set k s' = sys := fun _ => List.set_eq_of_length_le (List.getElem?_eq_none_iff.mp hk)
    simp only [stepOf, hk, hset]
    constructor
    · intro h
      injection h with h
      exact ⟨.reset, h.symm, nofun⟩
    · rintro ⟨-, rfl, -⟩
      rfl
  · simp only [stepOf, hk, andThen_eq_next]
    constructor
    · rintro ⟨s', hs, h⟩
      injection h with h
      exact ⟨s', h.symm, fun _ he => Option.some.inj he ▸ hs⟩
    · rintro ⟨s', rfl, hs⟩
      exact ⟨s', hs s rfl, rfl⟩

end Sys2Proof.Machine

/-! PROOFS. The obligations about the ports and the instances (spec/20_memory.md). -/

namespace Sys2Proof.Proofs

open Sys2Proof.Machine

/-- Settles O6. -/
theorem stepRunsTheDecodedCommand : Obligations.StepRunsTheDecodedCommand :=
  fun _ _ _ _ => step_of_command

/-- Settles O7, from what a step does to each of the two ports. -/
theorem eventsTakenInOrder : Obligations.EventsTakenInOrder := by
  intro s s' h
  refine ⟨step_pending h, ?_⟩
  obtain hnone | ⟨r, hone⟩ := step_responses h
  · exact ⟨[], by simp [hnone], Nat.zero_le 1⟩
  · exact ⟨[r], hone, le_rfl⟩

/-- Settles O44: each half of the sixteen bytes is the bytes of two words. -/
theorem byteAndPairViewsAgree : Obligations.ByteAndPairViewsAgree := by
  intro out
  refine ⟨fun j k => getElem?_bytes16 out, length_bytes16 out, rfl, ?_, ?_⟩
  · exact le64_bytes4_append (out.getD 0 0) (out.getD 1 0)
  · rw [le64_drop]
    exact le64_bytes4_append (out.getD 2 0) (out.getD 3 0)

/-- Settles O52: the two steps write different entries, so neither changes what the other reads and the writes commute. -/
theorem instancesCommute : Obligations.InstancesCommute := by
  intro sys a b j k hjk ha hb
  obtain ⟨sj, rfl, hj⟩ := stepOf_eq_next.mp ha
  obtain ⟨sk, rfl, hk⟩ := stepOf_eq_next.mp hb
  have hkeep : (sys.set j sj)[k]? = sys[k]? := List.getElem?_set_ne hjk
  have hkeep' : (sys.set k sk)[j]? = sys[j]? := List.getElem?_set_ne hjk.symm
  rw [hkeep] at hk
  refine ⟨hkeep, sys.set k sk, stepOf_eq_next.mpr ⟨sk, rfl, hk⟩, stepOf_eq_next.mpr ⟨sj, ?_, ?_⟩, hkeep'⟩
  · exact List.set_comm sj sk hjk
  · rwa [hkeep']

end Sys2Proof.Proofs

/-! SUPPORT. The decoder gives back every operand of an encoding, and names the first check a transaction fails
(spec/30_encoding.md R45, R46, R49). -/

namespace Sys2Proof

/-- The full command word of R45 and a payload of the opcode's length decode to the opcode's operands. -/
theorem decode_commandWord {o : Opcode} {p : List Word32} (h : p.length = payloadWords o) :
    decode ⟨commandWord o, p⟩ = .ok (operandsOf o p) := by
  have hrsvd : rsvdField (commandWord o) = 0 := by cases o <;> rfl
  have hopc : opcodeOf (opcField (commandWord o)) = some o := by cases o <;> rfl
  simp [decode, hrsvd, hopc, h]

@[simp] theorem lanes64At_words64_append (v : Lanes Word64) (p : List Word32) : lanes64At (words64 v ++ p) 0 = v := by
  apply Lanes.ext_get
  intro i
  fin_cases i <;> exact u64_hi32_lo32 _

@[simp] theorem lanes64At_append_words64 (v w : Lanes Word64) : lanes64At (words64 v ++ words64 w) 8 = w := by
  apply Lanes.ext_get
  intro i
  fin_cases i <;> exact u64_hi32_lo32 _

theorem length_payloadOf (i : Instr) : (payloadOf i).length = payloadWords (opcodeOfInstr i) := by
  cases i <;> rfl

/-- The payload keeps every operand (R46, R48). -/
theorem operandsOf_payloadOf (i : Instr) : operandsOf (opcodeOfInstr i) (payloadOf i) = i := by
  cases i with
  | wmul | seed => simp [opcodeOfInstr, payloadOf, operandsOf]
  | rotr | seedEntropy | step => rfl

/-- Decoding an encoded instruction gives it back. -/
@[simp] theorem decode_encode (i : Instr) : decode (encode i) = .ok i := by
  rw [encode, decode_commandWord (length_payloadOf i), operandsOf_payloadOf]

theorem decode_eq_ok_iff {t : Transaction} {i : Instr} : decode t = .ok i ↔ t = encode i := by
  constructor
  · exact eq_encode_of_decode
  · rintro rfl
    exact decode_encode i

theorem opcField_eq_mod (c : Word32) : opcField c = c.toNat % 256 := by
  simp [opcField]

/-- The table of WellFormed.lean is the decoder's, read in two steps (R45). -/
theorem lengthOfOpc_eq (n : Nat) : Transaction.lengthOfOpc n = (opcodeOf n).map payloadWords := by
  unfold opcodeOf
  split
  case h_6 h1 h2 h3 h4 h5 =>
    rw [Transaction.lengthOfOpc, Option.map_none, List.lookup_eq_none_iff]
    simpa using ⟨h1, h2, h3, h4, h5⟩
  all_goals rfl

variable {t : Transaction}

theorem rsvdZero_iff : t.rsvdZero = true ↔ rsvdField t.command = 0 := by
  have h := toNat_command t.command
  have hopc := opcField_eq_mod t.command
  simp only [Transaction.rsvdZero, decide_eq_true_eq]
  omega

theorem opcAssigned_eq_isSome : t.opcAssigned = (opcodeOf (opcField t.command)).isSome := by
  rw [Transaction.opcAssigned, lengthOfOpc_eq, ← opcField_eq_mod, Option.isSome_map]

theorem lengthRight_iff {o : Opcode} (ho : opcodeOf (opcField t.command) = some o) :
    t.lengthRight = true ↔ t.payload.length = payloadWords o := by
  rw [Transaction.lengthRight, lengthOfOpc_eq, ← opcField_eq_mod, ho, Option.map_some, beq_iff_eq, Option.some.injEq]
  exact eq_comm

/-- The first check of R49 fails. -/
theorem decode_of_not_rsvdZero (hrsvd : t.rsvdZero = false) : decode t = .error .reservedBits := by
  have h : rsvdField t.command ≠ 0 := by simp [← rsvdZero_iff, hrsvd]
  simp [decode, h]

/-- The second check of R49 is the first to fail. -/
theorem decode_of_not_opcAssigned (hrsvd : t.rsvdZero = true) (hopc : t.opcAssigned = false) :
    decode t = .error .reservedOpcode := by
  rw [opcAssigned_eq_isSome, Option.isSome_eq_false_iff, Option.isNone_iff_eq_none] at hopc
  simp [decode, rsvdZero_iff.mp hrsvd, hopc]

/-- The third check of R49 is the first to fail. -/
theorem decode_of_not_lengthRight (hrsvd : t.rsvdZero = true) (hopc : t.opcAssigned = true)
    (hlen : t.lengthRight = false) : decode t = .error .wrongLength := by
  obtain ⟨o, ho⟩ := Option.isSome_iff_exists.mp (opcAssigned_eq_isSome ▸ hopc)
  have h : t.payload.length ≠ payloadWords o := by simp [← lengthRight_iff ho, hlen]
  simp [decode, rsvdZero_iff.mp hrsvd, ho, h]

/-- No check of R49 fails. -/
theorem exists_decode_of_checks (hrsvd : t.rsvdZero = true) (hopc : t.opcAssigned = true) (hlen : t.lengthRight = true) :
    ∃ i, decode t = .ok i := by
  obtain ⟨o, ho⟩ := Option.isSome_iff_exists.mp (opcAssigned_eq_isSome ▸ hopc)
  exact ⟨operandsOf o t.payload, by simp [decode, rsvdZero_iff.mp hrsvd, ho, (lengthRight_iff ho).mp hlen]⟩

/-- Four disjoint ways a transaction can fare, by the checks of WellFormed.lean in R49's order. -/
theorem decode_cases (t : Transaction) :
    (t.rsvdZero = false ∧ decode t = .error .reservedBits) ∨
    (t.rsvdZero = true ∧ t.opcAssigned = false ∧ decode t = .error .reservedOpcode) ∨
    (t.rsvdZero = true ∧ t.opcAssigned = true ∧ t.lengthRight = false ∧ decode t = .error .wrongLength) ∨
    (t.rsvdZero = true ∧ t.opcAssigned = true ∧ t.lengthRight = true ∧ ∃ i, decode t = .ok i) := by
  cases hrsvd : t.rsvdZero
  · exact .inl ⟨rfl, decode_of_not_rsvdZero hrsvd⟩
  cases hopc : t.opcAssigned
  · exact .inr (.inl ⟨rfl, rfl, decode_of_not_opcAssigned hrsvd hopc⟩)
  cases hlen : t.lengthRight
  · exact .inr (.inr (.inl ⟨rfl, rfl, rfl, decode_of_not_lengthRight hrsvd hopc hlen⟩))
  · exact .inr (.inr (.inr ⟨rfl, rfl, rfl, exists_decode_of_checks hrsvd hopc hlen⟩))

/-- An instruction is decoded exactly from the transactions that pass all three checks (R49). -/
theorem exists_decode_iff : (∃ i, decode t = .ok i) ↔ t.wellFormed = true := by
  obtain ⟨hrsvd, hd⟩ | ⟨hrsvd, hopc, hd⟩ | ⟨hrsvd, hopc, hlen, hd⟩ | ⟨hrsvd, hopc, hlen, i, hd⟩ := decode_cases t <;>
    simp [Transaction.wellFormed, *]

end Sys2Proof

/-! SUPPORT. The response of a command (spec/30_encoding.md R44), and a transaction that decode rejects (R49). -/

namespace Sys2Proof.Machine

variable {s s' : State} {t : Transaction} {rest : List PortEvent}

/-- A transaction the decoder rejects is answered ERR_ILLEGAL on the state with it taken. -/
theorem step_of_illegal {why : Illegal} (hp : s.pending = .command t :: rest) (hd : decode t = .error why) :
    step s = .next (illegalCommand { s with pending := rest }) := by
  rw [step, takeEvent_cons hp]
  simp only [hd]

/-- The one response of a command that goes on has data only with OK, and then as many words as R45 says. -/
theorem exec_response_data {i : Instr} (h : exec i s = .next s') :
    ∃ r, s'.responses = s.responses ++ [r] ∧ (r.data ≠ [] → r.status = .ok) ∧
      (r.status = .ok → r.data.length = responseWords (opcodeOfInstr i)) := by
  cases i with
  | wmul | rotr | seed => cases h; exact ⟨_, rfl, fun _ => rfl, fun _ => rfl⟩
  | seedEntropy =>
    obtain ⟨_, _, rfl⟩ | ⟨_, _, _, _, rfl⟩ := exec_seedEntropy_cases h
    · exact ⟨⟨.errEntropy, []⟩, rfl, nofun, nofun⟩
    · exact ⟨_, rfl, fun _ => rfl, fun _ => rfl⟩
  | step =>
    obtain ⟨-, rfl⟩ | ⟨-, rfl⟩ := exec_step_cases h
    · exact ⟨⟨.errUnseeded, []⟩, rfl, nofun, nofun⟩
    · exact ⟨_, rfl, fun _ => rfl, fun _ => rfl⟩

end Sys2Proof.Machine

/-! SUPPORT. The assembler's literals and lines (spec/30_encoding.md R53). -/

namespace Sys2Proof.Machine

theorem literalFits_iff {w : Nat} {z : Int} : literalFits w z = true ↔ -2 ^ (w - 1) ≤ z ∧ z < 2 ^ w := by
  simp [literalFits]

/-- A literal that fits and is not negative is the operand's bits as an unsigned number. -/
theorem toNat_ofInt_of_fits {w : Nat} {z : Int} (hz : 0 ≤ z) (h : literalFits w z = true) :
    ((BitVec.ofInt w z).toNat : Int) = z := by
  obtain ⟨-, hlt⟩ := literalFits_iff.mp h
  have hmod : z % 2 ^ w = z := Int.emod_eq_of_lt hz hlt
  simp [BitVec.toNat_ofInt, hmod, hz]

/-- A literal that fits and is negative is the operand's bits in two's complement. -/
theorem toInt_ofInt_of_fits {w : Nat} {z : Int} (hw : 0 < w) (hz : z < 0) (h : literalFits w z = true) :
    (BitVec.ofInt w z).toInt = z := by
  obtain ⟨hle, -⟩ := literalFits_iff.mp h
  have hpos : (0 : Int) < 2 ^ (w - 1) := by positivity
  exact BitVec.toInt_ofInt_eq_self hw hle (hz.trans hpos)

theorem assembleLine_eq_none_iff {l : AsmLine} : assembleLine l = none ↔ l.wellFormed = false := by
  cases l <;> simp [assembleLine]

end Sys2Proof.Machine

/-! PROOFS. The obligations about the encoding, the decoder and the assembler (spec/30_encoding.md). -/

namespace Sys2Proof.Proofs

open Sys2Proof.Machine

/-- Settles O1: the operands keep every payload word, and the payload keeps every operand. -/
theorem decodeIffEncode : Obligations.DecodeIffEncode :=
  fun _ _ => decode_eq_ok_iff

/-- Settles O2, from the four ways a transaction can fare. -/
theorem decodeNamesFirstFailedCheck : Obligations.DecodeNamesFirstFailedCheck := by
  intro t
  refine ⟨exists_decode_iff, ?_⟩
  obtain ⟨hrsvd, hd⟩ | ⟨hrsvd, hopc, hd⟩ | ⟨hrsvd, hopc, hlen, hd⟩ | ⟨hrsvd, hopc, hlen, i, hd⟩ := decode_cases t <;>
    simp [*]

/-- Settles O3: the decoder rejects a transaction that fails a check, and accepts any other as its instruction. -/
theorem illegalTransactionAnsweredWithoutEffect : Obligations.IllegalTransactionAnsweredWithoutEffect := by
  intro s t rest hp
  constructor
  · intro hbad
    cases hd : decode t with
    | error why => exact step_of_illegal hp hd
    | ok i => simp [exists_decode_iff.mp ⟨i, hd⟩] at hbad
  · intro hgood
    obtain ⟨i, hd⟩ := exists_decode_iff.mpr hgood
    exact ⟨i, eq_encode_of_decode hd, step_of_command hp hd⟩

/-- Settles O8: a command is performed and its response has the data R45 gives it, or it is rejected and answered with no data. -/
theorem oneResponsePerCommand : Obligations.OneResponsePerCommand := by
  constructor
  · intro s s' t rest hp h
    cases hd : decode t with
    | error why =>
      cases (step_of_illegal hp hd).symm.trans h
      exact ⟨⟨.errIllegal, []⟩, rfl, nofun, nofun⟩
    | ok i =>
      obtain ⟨r, hr, hdata, hlen⟩ := exec_response_data ((step_of_command hp hd).symm.trans h)
      exact ⟨r, hr, hdata, fun hok => ⟨i, rfl, hlen hok⟩⟩
  · intro st
    cases st <;> decide

/-- Settles O50. -/
theorem fittingLiteralsKeepTheirValue : Obligations.FittingLiteralsKeepTheirValue :=
  fun _ _ hw h => ⟨fun hz => toNat_ofInt_of_fits hz h, fun hz => toInt_ofInt_of_fits hw hz h⟩

/-- Settles O51: every line but RAW is assembled by `encode`, which the decoder inverts. -/
theorem assembledLinesDecodeToTheirCommand : Obligations.AssembledLinesDecodeToTheirCommand := by
  intro l
  refine ⟨assembleLine_eq_none_iff, fun t h => ?_⟩
  unfold assembleLine at h
  rw [Option.ite_none_right_eq_some] at h
  obtain ⟨-, h⟩ := h
  cases l with
  | wmul | rotr | seed | seedEntropy | step => cases h; exact decode_encode _
  | raw => cases h; rfl

/-- Settles O4: what the encodings are by evaluation, what they decode to by the inverse law. -/
theorem workedEncodingsOfTheSpec : Obligations.WorkedEncodingsOfTheSpec :=
  ⟨rfl, rfl, rfl, rfl, rfl, decode_eq_ok_iff.mpr rfl, decode_eq_ok_iff.mpr rfl, decode_eq_ok_iff.mpr rfl,
    decode_eq_ok_iff.mpr rfl, decode_eq_ok_iff.mpr rfl, decode_of_not_rsvdZero rfl⟩

/-- Settles O5: the payload has WMUL's length, and its words are paired low word first. -/
theorem wmulWordDecodes : Obligations.WmulWordDecodes := by
  intro p0 p1 p2 p3 p4 p5 p6 p7 q0 q1 q2 q3 q4 q5 q6 q7
  exact decode_commandWord (o := .wmul) rfl

end Sys2Proof.Proofs

/-! SUPPORT. What the partial-product multiplier computes (spec/40_wide_mul.md R56, R57). -/

namespace Sys2Proof.Machine

theorem toNat_mul32x32 (a b : Word32) : (mul32x32 a b).toNat = a.toNat * b.toNat := by
  have hlt : a.toNat * b.toNat < 2 ^ 64 := BitVec.toNat_mul_toNat_lt
  simpa [mul32x32] using hlt

/-- The equivalent form of R57: only the low half of the sum of the cross products counts. -/
theorem toNat_wmulLane (x : Word64) (ylo yhi : Word32) :
    (wmulLane x ylo yhi).toNat =
      (((hi32 x).toNat * ylo.toNat + (lo32 x).toNat * yhi.toNat) % 2 ^ 32 * 2 ^ 32 +
        (lo32 x).toNat * ylo.toNat) % 2 ^ 64 := by
  simp only [wmulLane, BitVec.toNat_add, BitVec.toNat_shiftLeft, toNat_mul32x32, Nat.shiftLeft_eq]
  omega

/-- The value law of R57: the product of the high halves, which the lane leaves out, is a multiple of 2^64. -/
theorem wmulLane_eq_mul (x : Word64) (ylo yhi : Word32) : wmulLane x ylo yhi = x * u64 yhi ylo := by
  apply BitVec.eq_of_toNat_eq
  have hx : x.toNat = (hi32 x).toNat * 2 ^ 32 + (lo32 x).toNat := by rw [← toNat_u64, u64_hi32_lo32]
  have hprod : x.toNat * (u64 yhi ylo).toNat =
      (hi32 x).toNat * yhi.toNat * 2 ^ 64 +
        (((hi32 x).toNat * ylo.toNat + (lo32 x).toNat * yhi.toNat) * 2 ^ 32 + (lo32 x).toNat * ylo.toNat) := by
    rw [hx, toNat_u64]
    ring
  rw [toNat_wmulLane, BitVec.toNat_mul, hprod]
  omega

/-- The lanes do not interact (R58). -/
@[simp] theorem get_wmul (x : Lanes Word64) (ylo yhi : Lanes Word32) (i : Fin 4) :
    (wmul x ylo yhi).get i = wmulLane (x.get i) (ylo.get i) (yhi.get i) :=
  Lanes.get_ofFn _ i

/-- With Y split as R60 splits it, the lanes are the products of X and Y. -/
theorem wmul_halves (x y : Lanes Word64) :
    wmul x (.ofFn fun i => lo32 (y.get i)) (.ofFn fun i => hi32 (y.get i)) = .ofFn fun i => x.get i * y.get i := by
  apply Lanes.ext_get
  intro i
  simp [wmulLane_eq_mul]

/-- WMUL adds its response with the four products and nothing else (R60). -/
theorem exec_wmul_eq (x y : Lanes Word64) (s : State) :
    exec (.wmul x y) s =
      .next { s with responses := s.responses ++ [⟨.ok, words64 (.ofFn fun i => x.get i * y.get i)⟩] } := by
  rw [exec_wmul, execWmul, wmul_halves, respond]

/-- The product of two words is the same bits for the signed reading of both (R58). -/
theorem mul_eq_ofInt_toInt_mul (a b : Word64) : a * b = BitVec.ofInt 64 (a.toInt * b.toInt) := by
  rw [BitVec.ofInt_mul, BitVec.ofInt_toInt, BitVec.ofInt_toInt]

end Sys2Proof.Machine

/-! PROOFS. The obligations about WMUL (spec/40_wide_mul.md). -/

namespace Sys2Proof.Proofs

open Sys2Proof.Machine

/-- Settles O22: each lane is the product as a word, and its number is the equivalent form. -/
theorem wideMultiplyValueLaw : Obligations.WideMultiplyValueLaw := by
  intro x ylo yhi i
  rw [get_wmul]
  exact ⟨by rw [wmulLane_eq_mul, BitVec.toNat_mul], toNat_wmulLane _ _ _⟩

/-- Settles O23. -/
theorem wmulAnswersTheProducts : Obligations.WmulAnswersTheProducts :=
  exec_wmul_eq

/-- Settles O24: the lanes are products of words, which commute and agree with both readings of the operands. -/
theorem wmulSignedAndCommutative : Obligations.WmulSignedAndCommutative := by
  intro x y s
  constructor
  · simp only [exec_wmul_eq, BitVec.mul_comm]
  · refine ⟨.ofFn fun i => x.get i * y.get i, exec_wmul_eq x y s, fun i => ?_⟩
    rw [Lanes.get_ofFn]
    exact ⟨mul_eq_ofInt_toInt_mul _ _, BitVec.mul_def⟩

end Sys2Proof.Proofs

/-! SUPPORT. The rotate as the library's rotate and bit by bit (spec/41_rotate.md R61 to R63), the lanes of ROTR, and
what ROTR does to the state (R64, R65). -/

namespace Sys2Proof.Machine

variable {v : Word32} {r k : Nat}

/-- The left term needs no case of its own: a left shift by the width gives 0 (R62). -/
theorem rotr32v_eq (v : Word32) (r : Nat) : rotr32v v r = v <<< (32 - r) ||| v >>> r := by
  rw [rotr32v]
  split
  case isTrue h => rw [BitVec.shiftLeft_eq_zero h]
  case isFalse => rfl

@[simp] theorem rotr32v_zero (v : Word32) : rotr32v v 0 = v := by
  simp [rotr32v_eq]

theorem rotr32v_eq_rotateRight (hr : r ≤ 31) : rotr32v v r = v.rotateRight r := by
  have hmod : r % 32 = r := Nat.mod_eq_of_lt (by omega)
  rw [rotr32v_eq, BitVec.rotateRight_def, hmod, BitVec.or_comm]

/-- The bit law of R63: bits 0 to 31 - r come down from r places above, the bits over them wrap around. -/
theorem getLsbD_rotr32v (hr : r ≤ 31) (hk : k < 32) : (rotr32v v r).getLsbD k = v.getLsbD ((k + r) % 32) := by
  rw [rotr32v_eq_rotateRight hr, BitVec.getLsbD_rotateRight_of_lt (by omega)]
  by_cases h : k < 32 - r
  · have hsrc : (k + r) % 32 = r + k := by omega
    simp [h, hsrc]
  · have hsrc : (k + r) % 32 = k - (32 - r) := by omega
    simp [h, hk, hsrc]

/-- The inverse law of R63: the two amounts add up to a whole turn. -/
theorem rotr32v_rotr32v_sub (hr : r ≤ 31) : rotr32v (rotr32v v r) ((32 - r) % 32) = v := by
  apply BitVec.eq_of_getLsbD_eq
  intro k hk
  have hturn : ((k + (32 - r) % 32) % 32 + r) % 32 = k := by omega
  rw [getLsbD_rotr32v (by omega) hk, getLsbD_rotr32v hr (by omega), hturn]

/-- Reducing the left shift's count modulo 32 changes the left term at amount 0 only, where v OR v is v (R62). -/
theorem rotr32v_eq_reduced_count (hr : r ≤ 31) : rotr32v v r = v <<< ((32 - r) % 32) ||| v >>> r := by
  rcases Nat.eq_zero_or_pos r with rfl | hpos
  · simp
  · rw [rotr32v_eq, Nat.mod_eq_of_lt (by omega)]

/-- The amount inside STEP is the top five bits of the state (R66). -/
theorem rotAmount_le (old : Word64) : rotAmount old ≤ 31 := by
  have h : (old >>> Config.rotShift).toNat < 2 ^ (64 - Config.rotShift) :=
    BitVec.toNat_ushiftRight_lt old Config.rotShift (by decide)
  exact Nat.le_of_lt_succ h

section RotrLanes

variable {r : Lanes Word32} {i : Fin 4}

/-- A lane with an amount in 0..31 depends on its own operands alone (R63). -/
theorem get_rotrLanes_of_le (v : Lanes Word32) (n : Nat) (h : (r.get i).toNat ≤ 31) :
    (rotrLanes v r n).get i = rotr32v (v.get i) (r.get i).toNat := by
  rw [rotrLanes, Lanes.get_ofFn, rotrLane, if_pos h]

/-- A lane with an amount of 32 or more is the draw of its index (R64, log 7). -/
theorem get_rotrLanes_of_ge (v : Lanes Word32) (n : Nat) (h : 32 ≤ (r.get i).toNat) :
    (rotrLanes v r n).get i = Config.rotrOob (n + i.val) := by
  rw [rotrLanes, Lanes.get_ofFn, rotrLane, if_neg (by omega)]

theorem rotrLanes_of_forall_le (v : Lanes Word32) (n : Nat) (h : ∀ i, (r.get i).toNat ≤ 31) :
    rotrLanes v r n = .ofFn fun i => (v.get i).rotateRight (r.get i).toNat := by
  apply Lanes.ext_get
  intro i
  rw [get_rotrLanes_of_le v n (h i), rotr32v_eq_rotateRight (h i), Lanes.get_ofFn]

/-- The counter of free values stands still exactly when every amount is in 0..31 (log 7). -/
theorem rotrDraws_eq_ite (r : Lanes Word32) : rotrDraws r = if ∀ i, (r.get i).toNat ≤ 31 then 0 else 4 := by
  simp only [rotrDraws, List.all_eq_true, decide_eq_true_eq, Lanes.forall_mem_toList r fun a => a.toNat ≤ 31]

theorem rotrDraws_of_forall_le (h : ∀ i, (r.get i).toNat ≤ 31) : rotrDraws r = 0 := by
  rw [rotrDraws_eq_ite, if_pos h]

theorem rotrDraws_of_ge (h : 32 ≤ (r.get i).toNat) : rotrDraws r = 4 := by
  rw [rotrDraws_eq_ite, if_neg fun hall => absurd (hall i) (by omega)]

end RotrLanes

/-- ROTR adds its response and moves the counter of free values, and does nothing else (R65). -/
theorem exec_rotr_eq (v r : Lanes Word32) (s : State) :
    exec (.rotr v r) s =
      .next { s with
        draws := s.draws + rotrDraws r
        responses := s.responses ++ [⟨.ok, words32 (rotrLanes v r s.draws)⟩] } := rfl

end Sys2Proof.Machine

/-! PROOFS. The obligations about the rotate and ROTR (spec/41_rotate.md). -/

namespace Sys2Proof.Proofs

open Sys2Proof.Machine

/-- Settles O25: the bit law, from which the inverse law follows bit by bit, and the lane law. -/
theorem rotateValueLaw : Obligations.RotateValueLaw :=
  ⟨fun _ _ hr => ⟨fun _ hk => getLsbD_rotr32v hr hk, rotr32v_rotr32v_sub hr⟩,
    fun v _ n _ hi => get_rotrLanes_of_le v n hi⟩

/-- Settles O26. -/
theorem rotateByZeroAndReducedCount : Obligations.RotateByZeroAndReducedCount := by
  intro v
  refine ⟨BitVec.shiftLeft_eq_zero le_rfl, ?_, rotr32v_zero v, fun r hr => rotr32v_eq_reduced_count hr⟩
  rw [rotr32v_zero, BitVec.zero_or]

/-- Settles O27: no lane draws, so every lane is a rotate and the counter of free values stands still. -/
theorem rotrAnswersTheRotates : Obligations.RotrAnswersTheRotates := by
  intro v r s h
  rw [exec_rotr_eq, rotrLanes_of_forall_le v s.draws h, rotrDraws_of_forall_le h, Nat.add_zero]

/-- Settles O28: a lane of 32 or more makes the counter pass four draws, of which the lane takes the one at its index. -/
theorem rotrRunsForEveryAmount : Obligations.RotrRunsForEveryAmount := by
  refine ⟨fun v r s => ⟨rotrLanes v r s.draws, rotrDraws r, exec_rotr_eq v r s, fun i => ⟨fun hle => ?_, fun hge => ?_⟩⟩,
    rotAmount_le⟩
  · rw [get_rotrLanes_of_le v s.draws hle, rotr32v_eq_rotateRight hle]
  · have hpassed : s.draws + i.val < s.draws + rotrDraws r := by
      rw [rotrDraws_of_ge hge]
      omega
    exact ⟨s.draws + i.val, by omega, hpassed, get_rotrLanes_of_ge v s.draws hge⟩

end Sys2Proof.Proofs

/-! SUPPORT. The output permutation (spec/42_state_engine.md R66, R67): its bits, the part of the state it reads, and
the scalar reference's output as the same function. -/

namespace Sys2Proof.Machine

variable {a b : Word64} {k : Nat}

theorem getLsbD_xorshift18 (old : Word64) (k : Nat) :
    ((old >>> 18) ^^^ old).getLsbD k = (old.getLsbD (18 + k) ^^ old.getLsbD k) := by
  rw [BitVec.getLsbD_xor, BitVec.getLsbD_ushiftRight]

/-- Above bit 45 the shifted copy has run out. -/
theorem getLsbD_xorshift18_of_ge (old : Word64) (hk : 46 ≤ k) :
    ((old >>> 18) ^^^ old).getLsbD k = old.getLsbD k := by
  rw [getLsbD_xorshift18, BitVec.getLsbD_of_ge old (18 + k) (by omega), Bool.false_xor]

theorem getLsbD_xorshifted (old : Word64) (k : Nat) :
    (xorshifted old).getLsbD k = (old.getLsbD (45 + k) ^^ old.getLsbD (27 + k)) := by
  have hsum : 18 + (27 + k) = 45 + k := by omega
  rw [xorshifted, Config.xsShift1, Config.xsShift2, BitVec.getLsbD_ushiftRight, getLsbD_xorshift18, hsum]

theorem toNat_xorshifted_lt (old : Word64) : (xorshifted old).toNat < 2 ^ 37 :=
  BitVec.toNat_ushiftRight_lt _ Config.xsShift2 (by decide)

/-- The truncation keeps u[58:27]. -/
theorem setWidth_xorshifted (old : Word64) :
    (xorshifted old).setWidth 32 = ((old >>> 18) ^^^ old).extractLsb' 27 32 :=
  BitVec.setWidth_ushiftRight_eq_extractLsb

/-- One bit of the truncation; above bit 63 of the state there is nothing to combine with. -/
theorem getLsbD_setWidth_xorshifted (old : Word64) (hk : k < 32) :
    ((xorshifted old).setWidth 32).getLsbD k =
      (old.getLsbD (27 + k) ^^ (if 45 + k > 63 then false else old.getLsbD (45 + k))) := by
  have hhigh : (if 45 + k > 63 then false else old.getLsbD (45 + k)) = old.getLsbD (45 + k) := by
    split
    case isTrue h => rw [BitVec.getLsbD_of_ge old (45 + k) (by omega)]
    case isFalse => rfl
  rw [hhigh, BitVec.getLsbD_setWidth, getLsbD_xorshifted, Bool.xor_comm]
  simp [hk]

theorem rotAmount_eq_extractLsb' (old : Word64) : rotAmount old = (old.extractLsb' 59 5).toNat := by
  have h := rotAmount_le old
  rw [BitVec.extractLsb'_toNat]
  exact (Nat.mod_eq_of_lt (Nat.lt_succ_of_le h)).symm

/-- The permutation reads the state through `old >> 27` alone. -/
theorem perm_congr (h : a >>> 27 = b >>> 27) : perm a = perm b := by
  have hbit (k : Nat) : a.getLsbD (27 + k) = b.getLsbD (27 + k) := by
    rw [← BitVec.getLsbD_ushiftRight, ← BitVec.getLsbD_ushiftRight, h]
  have hxor : xorshifted a = xorshifted b := by
    apply BitVec.eq_of_getLsbD_eq
    intro k _
    have hsum : 45 + k = 27 + (18 + k) := by omega
    rw [getLsbD_xorshifted, getLsbD_xorshifted, hsum, hbit, hbit]
  have hrot : a >>> 59 = b >>> 59 := by
    rw [BitVec.shiftRight_add a 27 32, BitVec.shiftRight_add b 27 32, h]
  rw [perm, perm, hxor, rotAmount, rotAmount, Config.rotShift, hrot]

/-- Bits 63:27 are `old >> 27`. -/
theorem ushiftRight_eq_of_extractLsb'_eq (h : a.extractLsb' 27 37 = b.extractLsb' 27 37) : a >>> 27 = b >>> 27 := by
  apply BitVec.eq_of_toNat_eq
  have hnum := congrArg BitVec.toNat h
  have ha := a.isLt
  have hb := b.isLt
  simp only [BitVec.extractLsb'_toNat, BitVec.toNat_ushiftRight, Nat.shiftRight_eq_div_pow] at hnum ⊢
  omega

/-- The reference rotates with the library's rotate, which is `rotr32v` at the amounts of R66. -/
theorem perm_eq_referenceEmit (old : Word64) : perm old = referenceEmit old :=
  rotr32v_eq_rotateRight (rotAmount_le old)

end Sys2Proof.Machine

/-! SUPPORT. What STEP does to a state, before and after a seeding (spec/42_state_engine.md R69). -/

namespace Sys2Proof.Machine

theorem stepOutputs_eq_ofFn_referenceEmit (v : Lanes Word64) :
    stepOutputs v = .ofFn fun i => referenceEmit (v.get i) := by
  simp only [stepOutputs, perm_eq_referenceEmit]

theorem stepState_eq_ofFn (s : State) :
    stepState s = .ofFn fun i => s.state.get i * u64 s.mulHi s.mulLo + s.inc.get i := by
  simp only [stepState, get_wmul, Lanes.get_broadcast, wmulLane_eq_mul]

theorem exec_step_of_unseeded {s : State} (h : s.seeded = false) :
    exec .step s = .next { s with responses := s.responses ++ [⟨.errUnseeded, []⟩] } := by
  rw [exec_step, execStep, if_pos h]
  rfl

theorem exec_step_of_seeded {s : State} (h : s.seeded = true) :
    exec .step s =
      .next { s with
        state := stepState s
        responses := s.responses ++ [⟨.ok, words32 (stepOutputs s.state)⟩] } := by
  rw [exec_step, execStep, if_neg (by simp [h])]
  rfl

end Sys2Proof.Machine

/-! SUPPORT. Sequences of events (spec/20_memory.md R38): a command in front, and one sequence after another. -/

namespace Sys2Proof.Machine

@[simp] theorem deliver_encode (i : Instr) (s : State) : deliver (.command (encode i)) s = exec i s :=
  deliver_command_ok s (decode_encode i)

@[simp] theorem deliverAll_nil (s : State) : deliverAll [] s = .next s := rfl

@[simp] theorem deliverAll_cons (e : PortEvent) (es : List PortEvent) (s : State) :
    deliverAll (e :: es) s = andThen (deliver e s) (deliverAll es) := rfl

theorem andThen_assoc {α β γ : Type} (o : Host.Outcome α Fault Refusal) (f : α → Host.Outcome β Fault Refusal)
    (g : β → Host.Outcome γ Fault Refusal) : andThen (andThen o f) g = andThen o fun a => andThen (f a) g := by
  cases o <;> rfl

theorem deliverAll_append (es fs : List PortEvent) (s : State) :
    deliverAll (es ++ fs) s = andThen (deliverAll es s) (deliverAll fs) := by
  induction es generalizing s with
  | nil => rfl
  | cons e es ih =>
    rw [List.cons_append, deliverAll_cons, deliverAll_cons, andThen_assoc]
    exact congrArg _ (funext ih)

end Sys2Proof.Machine

/-! SUPPORT. The state after SEED and n STEPs, lane by lane from the scalar reference (spec/42_state_engine.md R72). -/

namespace Sys2Proof.Machine

/-- The response to SEED and those to the n STEPs after it: lane i of STEP k is the reference's output of round k. -/
def referenceResponses (st inc : Lanes Word64) (n : Nat) : List Response :=
  ⟨.ok, []⟩ :: (List.range n).map fun k =>
    ⟨.ok, words32 (.ofFn fun i => referenceOutput (inc.get i ||| 1#64) (st.get i) k)⟩

/-- s after SEED and n STEPs: each lane of STATE has gone n rounds of the reference. -/
def afterSteps (st inc : Lanes Word64) (n : Nat) (s : State) : State :=
  { construct st inc s with
    state := .ofFn fun i => referenceState (inc.get i ||| 1#64) (st.get i) n
    responses := s.responses ++ referenceResponses st inc n }

variable (st inc : Lanes Word64) (n : Nat) (s : State)

theorem referenceResponses_succ :
    referenceResponses st inc (n + 1) = referenceResponses st inc n ++
      [⟨.ok, words32 (.ofFn fun i => referenceOutput (inc.get i ||| 1#64) (st.get i) n)⟩] := by
  simp [referenceResponses, List.range_succ]

theorem exec_seed_eq_afterSteps : exec (.seed st inc) s = .next (afterSteps st inc 0 s) := rfl

/-- A STEP is one more round of the reference in every lane: the multiplier is M, and the output is that of the state
before the round. -/
theorem exec_step_afterSteps : exec .step (afterSteps st inc n s) = .next (afterSteps st inc (n + 1) s) := by
  have hstate : stepState (afterSteps st inc n s) = (afterSteps st inc (n + 1) s).state := by
    simp [stepState_eq_ofFn, afterSteps, u64_config_mul, referenceState, referenceNext]
  have hout : stepOutputs (afterSteps st inc n s).state =
      .ofFn fun i => referenceOutput (inc.get i ||| 1#64) (st.get i) n := by
    simp [stepOutputs_eq_ofFn_referenceEmit, afterSteps, referenceOutput]
  rw [exec_step_of_seeded rfl, hstate, hout]
  simp [afterSteps, referenceResponses_succ]

theorem deliverAll_seed_replicate_step :
    deliverAll (.command (encode (.seed st inc)) :: List.replicate n (.command (encode .step))) s =
      .next (afterSteps st inc n s) := by
  induction n with
  | zero =>
    rw [List.replicate_zero, deliverAll_cons, deliver_encode, exec_seed_eq_afterSteps, andThen_next, deliverAll_nil]
  | succ n ih =>
    rw [List.replicate_succ', ← List.cons_append, deliverAll_append, ih, andThen_next, deliverAll_cons,
      deliver_encode, exec_step_afterSteps, andThen_next, deliverAll_nil]

@[simp] theorem afterSteps_responses :
    (afterSteps st inc n s).responses = s.responses ++ referenceResponses st inc n := rfl

theorem get_afterSteps_state (i : Fin 4) :
    (afterSteps st inc n s).state.get i = referenceState (inc.get i ||| 1#64) (st.get i) n :=
  Lanes.get_ofFn _ i

theorem get_afterSteps_inc (i : Fin 4) : (afterSteps st inc n s).inc.get i = inc.get i ||| 1#64 :=
  Lanes.get_ofFn _ i

theorem getElem?_words32 (v : Lanes Word32) (i : Fin 4) : (words32 v)[i.val]? = some (v.get i) := by
  fin_cases i <;> rfl

/-- Word i of every response is a function of the seed's lane i alone (R74). -/
theorem map_lane_referenceResponses (i : Fin 4) :
    (referenceResponses st inc n).map (fun r => r.data[i.val]?) =
      none :: (List.range n).map fun k => some (referenceOutput (inc.get i ||| 1#64) (st.get i) k) := by
  simp [referenceResponses, getElem?_words32]

end Sys2Proof.Machine

/-! SUPPORT. The block reads neither what the host has still to issue nor its own earlier responses: other ones in their
place leave every command and every event as it was (spec/10_state.md R23, log 3). -/

namespace Sys2Proof.Machine

/-- s with p pending, and with the responses r given before its own. -/
def onPorts (p : List PortEvent) (r : List Response) (s : State) : State :=
  { s with pending := p, responses := r ++ s.responses }

section OnPorts

variable (p : List PortEvent) (r : List Response) (s : State)

theorem respond_onPorts (st : Status) (d : List Word32) :
    respond st d (onPorts p r s) = onPorts p r (respond st d s) := by
  simp [respond, onPorts]

theorem construct_onPorts (st inc : Lanes Word64) :
    construct st inc (onPorts p r s) = onPorts p r (construct st inc s) := rfl

theorem seedEntropyFails_onPorts : seedEntropyFails (onPorts p r s) = onPorts p r (seedEntropyFails s) :=
  respond_onPorts p r (clearSeeded s) _ _

theorem entropyRead_onPorts :
    entropyRead (onPorts p r s) = ((entropyRead s).1, onPorts p r (entropyRead s).2) := by
  rcases h : s.entropyIn with _ | ⟨a, rest⟩ <;> simp [entropyRead, onPorts, h]

theorem seedEntropy_onPorts : seedEntropy (onPorts p r s) = onPorts p r (seedEntropy s) := by
  simp only [seedEntropy, entropyRead_onPorts]
  split
  · exact seedEntropyFails_onPorts p r _
  · split
    · exact seedEntropyFails_onPorts p r _
    · rw [construct_onPorts, respond_onPorts]

theorem exec_onPorts (i : Instr) :
    exec i (onPorts p r s) = andThen (exec i s) fun s' => .next (onPorts p r s') := by
  cases i with
  | wmul => exact congrArg _ (respond_onPorts p r s _ _)
  | rotr v a => exact congrArg _ (respond_onPorts p r { s with draws := s.draws + rotrDraws a } _ _)
  | seed => exact congrArg _ (respond_onPorts p r (construct _ _ s) _ _)
  | seedEntropy =>
    rw [exec_seedEntropy, exec_seedEntropy, execSeedEntropy, execSeedEntropy,
      entropyWaits_congr (s := onPorts p r s) (t := s) rfl, seedEntropy_onPorts]
    split <;> rfl
  | step =>
    cases hs : s.seeded with
    | false =>
      rw [exec_step_of_unseeded hs, exec_step_of_unseeded (s := onPorts p r s) hs]
      exact congrArg _ (respond_onPorts p r s _ _)
    | true =>
      rw [exec_step_of_seeded hs, exec_step_of_seeded (s := onPorts p r s) hs]
      exact congrArg _ (respond_onPorts p r { s with state := stepState s } _ _)

theorem deliver_onPorts (e : PortEvent) :
    deliver e (onPorts p r s) = andThen (deliver e s) fun s' => .next (onPorts p r s') := by
  cases e with
  | command t =>
    rcases hd : decode t with why | i
    · simp only [deliver, step, takeEvent_issueEvent, hd]
      exact congrArg _ (respond_onPorts p r _ _ _)
    · simp only [deliver, deliver_command_ok _ hd, exec_onPorts]
  | reset | resetDuring => rfl

theorem deliverAll_onPorts (es : List PortEvent) :
    deliverAll es (onPorts p r s) = andThen (deliverAll es s) fun s' => .next (onPorts p r s') := by
  induction es generalizing s with
  | nil => rfl
  | cons e es ih => simp only [deliverAll_cons, deliver_onPorts, andThen_assoc, andThen_next, ih]

end OnPorts

/-- The block right after SEED, with nothing pending and no earlier response: all that is left of the state before is
the inputs from outside, the entropy answers and the counters (R7, logs 4 and 7). -/
def freshlySeeded (st inc : Lanes Word64) (answers : List EntropyAnswer) (requests draws : Nat) : State where
  state := st
  inc := .ofFn fun i => inc.get i ||| 1#64
  mulLo := Config.mulLo
  mulHi := Config.mulHi
  seeded := true
  pending := []
  responses := [⟨.ok, []⟩]
  entropyIn := answers
  entropyRequests := requests
  draws := draws

theorem exec_seed_eq_onPorts (st inc : Lanes Word64) (s : State) :
    exec (.seed st inc) s =
      .next (onPorts s.pending s.responses (freshlySeeded st inc s.entropyIn s.entropyRequests s.draws)) := rfl

/-- After SEED the events run as on the freshly seeded block, whatever was in the registers. -/
theorem deliverAll_seed_cons (st inc : Lanes Word64) (es : List PortEvent) (s : State) :
    deliverAll (.command (encode (.seed st inc)) :: es) s =
      andThen (deliverAll es (freshlySeeded st inc s.entropyIn s.entropyRequests s.draws))
        fun u => .next (onPorts s.pending s.responses u) := by
  rw [deliverAll_cons, deliver_encode, exec_seed_eq_onPorts, andThen_next, deliverAll_onPorts]

end Sys2Proof.Machine

/-! PROOFS. The obligations about the state engine (spec/42_state_engine.md). -/

namespace Sys2Proof.Proofs

open Sys2Proof.Machine Sys2Proof.Safety

/-- Settles O29. -/
theorem stepBeforeSeedingIsAnsweredUnseeded : Obligations.StepBeforeSeedingIsAnsweredUnseeded :=
  fun _ => exec_step_of_unseeded

/-- Settles O30: the partial-product multiplier gives the products, and the permutation the reference's outputs. -/
theorem stepAdvancesAndOutputs : Obligations.StepAdvancesAndOutputs := by
  intro s hs
  rw [exec_step_of_seeded hs, stepState_eq_ofFn, stepOutputs_eq_ofFn_referenceEmit]

/-- Settles O31: the sum and the product of words, as numbers, with the registers holding M (R19). -/
theorem stepUpdateLaw : Obligations.StepUpdateLaw := by
  intro s hs hmul
  refine ⟨_, exec_step_of_seeded hs, fun i => ?_⟩
  rw [stepState_eq_ofFn, Lanes.get_ofFn, hmul hs, BitVec.toNat_add, BitVec.toNat_mul, toNat_config_mul, Nat.mod_add_mod,
    Nat.mul_comm]

/-- Settles O32: the bits of u and of its parts, and that `perm` reads them through `old >> 27`. -/
theorem permutationBitByBit : Obligations.PermutationBitByBit := by
  constructor
  · intro old
    exact ⟨fun k hk _ => getLsbD_xorshift18_of_ge old hk, fun k _ => getLsbD_xorshift18 old k,
      toNat_xorshifted_lt old, setWidth_xorshifted old, fun k hk => getLsbD_setWidth_xorshifted old hk,
      rotAmount_eq_extractLsb' old, rfl⟩
  · intro a b h
    exact perm_congr (ushiftRight_eq_of_extractLsb'_eq h)

/-- Settles O33: both engines answer the outputs of the one STATE. -/
theorem outputsComeFromTheOldState : Obligations.OutputsComeFromTheOldState := by
  intro s t hs ht hst
  refine ⟨_, _, stepOutputs s.state, exec_step_of_seeded hs, exec_step_of_seeded ht, rfl, ?_, fun i => ?_⟩
  · rw [hst]
  · exact Lanes.get_ofFn _ i

/-- Settles O34, by induction over the STEPs: each is one round of the reference in every lane. -/
theorem crossValidationAgainstTheScalarReference : Obligations.CrossValidationAgainstTheScalarReference :=
  fun s st inc n => ⟨_, deliverAll_seed_replicate_step st inc n s, rfl⟩

/-- Settles O35: after SEED both machines run the events as the same freshly seeded block does, and STEP reads the
registers alone. -/
theorem seededEnginesAreDeterministic : Obligations.SeededEnginesAreDeterministic := by
  constructor
  · intro s t s' st inc es hin hreq hdraws h
    rw [deliverAll_seed_cons, hin, hreq, hdraws, andThen_eq_next] at h
    obtain ⟨u, hrun, hs'⟩ := h
    injection hs' with hs'
    subst hs'
    refine ⟨onPorts t.pending t.responses u, u.responses, ?_, rfl, rfl, rfl, rfl, rfl, rfl, rfl⟩
    rw [deliverAll_seed_cons, hrun, andThen_next]
  · intro s t hstate hinc hlo hhi hseeded
    cases hs : s.seeded with
    | false => exact ⟨_, _, _, exec_step_of_unseeded hs, exec_step_of_unseeded (hseeded ▸ hs), rfl, rfl, hstate⟩
    | true =>
      refine ⟨_, _, _, exec_step_of_seeded hs, exec_step_of_seeded (hseeded ▸ hs), rfl, ?_, ?_⟩
      · rw [hstate]
      · simp only [stepState, hstate, hinc, hlo, hhi]

/-- Settles O36: lane i of every response and of the end state is the reference's, from the seed's lane i. -/
theorem lanesAreIndependent : Obligations.LanesAreIndependent := by
  intro s t st st' inc inc' i n hst hinc
  refine ⟨_, _, deliverAll_seed_replicate_step st inc n s, deliverAll_seed_replicate_step st' inc' n t, ?_, ?_, ?_⟩
  · simp only [afterSteps_responses, List.drop_left, map_lane_referenceResponses, hst, hinc]
  · rw [get_afterSteps_state, get_afterSteps_state, hst, hinc]
  · rw [get_afterSteps_inc, get_afterSteps_inc, hinc]

end Sys2Proof.Proofs

/-! SUPPORT. Setting the low bit of an increment, as a number (spec/43_seeding.md R77, R78). -/

namespace Sys2Proof.Machine

/-- Setting the low bit of an even number adds 1 and cannot carry; an odd number has it set. -/
theorem toNat_or_one (x : Word64) : (x ||| 1#64).toNat = if x.toNat % 2 = 0 then x.toNat + 1 else x.toNat := by
  have hlow : (x.toNat ||| 1) % 2 = 1 := by simp [Nat.or_mod_two_eq_one]
  have hhigh : (x.toNat ||| 1) / 2 = x.toNat / 2 := by simp [Nat.or_div_two]
  rw [BitVec.toNat_or, show (1#64).toNat = 1 from rfl]
  split <;> omega

theorem toNat_or_one_mod_two (x : Word64) : (x ||| 1#64).toNat % 2 = 1 := by
  rw [toNat_or_one]
  split <;> omega

theorem get_construct_inc (st inc : Lanes Word64) (s : State) (k : Fin 4) :
    (construct st inc s).inc.get k = inc.get k ||| 1#64 :=
  Lanes.get_ofFn _ k

/-- Whatever increments are supplied, construction makes every INC lane odd (R78). -/
theorem construct_inc_odd (st inc : Lanes Word64) (s : State) (k : Fin 4) :
    ((construct st inc s).inc.get k).toNat % 2 = 1 := by
  rw [get_construct_inc, toNat_or_one_mod_two]

variable {i : Instr} {s s' : State}

theorem exec_seeding_inc_odd (h : exec i s = .next s')
    (hi : (∃ st inc, i = .seed st inc) ∨ (i = .seedEntropy ∧ s'.seeded = true)) (k : Fin 4) :
    (s'.inc.get k).toNat % 2 = 1 := by
  obtain ⟨st, inc, rfl⟩ | ⟨rfl, hs⟩ := hi
  · cases h
    exact construct_inc_odd st inc s k
  · obtain ⟨_, _, rfl⟩ | ⟨_, _, _, _, rfl⟩ := exec_seedEntropy_cases h
    · cases hs
    · rw [respond_inc, construct_inc_odd]

/-- Only a SEED and a SEED_ENTROPY that leaves SEEDED = 1 write INC. -/
theorem exec_inc_of_not_seeding (h : exec i s = .next s') (hseed : ∀ st inc, i ≠ .seed st inc)
    (hentropy : ¬ (i = .seedEntropy ∧ s'.seeded = true)) : s'.inc = s.inc := by
  cases i with
  | wmul x y => exact (exec_registers_of_wmul_or_rotr h (.inl ⟨x, y, rfl⟩)).2.1
  | rotr v r => exact (exec_registers_of_wmul_or_rotr h (.inr ⟨v, r, rfl⟩)).2.1
  | seed st inc => exact absurd rfl (hseed st inc)
  | seedEntropy =>
    have hs : s'.seeded = false := by simpa using hentropy
    exact (exec_registers_of_failed_seedEntropy h hs).2.1
  | step => exact (exec_registers_of_step h).1

end Sys2Proof.Machine

/-! SUPPORT. The entropy port, request by request: what an answer is worth, what a request leaves, and how SEED_ENTROPY
ends for each outcome of its two requests (spec/43_seeding.md R76, R79). -/

namespace Sys2Proof.Machine

variable {s t s₁ s₂ : State} {a b : List Byte} {o : Option (List Byte)} {x : EntropyAnswer} {rest : List EntropyAnswer}

theorem block?_bytes (h : b.length = 32) : block? (.bytes b) = some b := block?_eq_some.mpr ⟨rfl, h⟩

/-- Fail and a short answer are both no block (R76). -/
theorem block?_eq_none (h : x = .fail ∨ ∃ b, x = .bytes b ∧ b.length < 32) : block? x = none := by
  obtain rfl | ⟨b, rfl, hlt⟩ := h
  · rfl
  · simp [block?, Config.entropyBlock, hlt.ne]

/-- A first answer that is no block ends the waiting: no second request is made (R79). -/
theorem entropyWaits_of_first_fails (hin : s.entropyIn = x :: rest) (hx : x ≠ .silent) (hblock : block? x = none) :
    entropyWaits s = false := by
  cases x with
  | silent => exact absurd rfl hx
  | bytes | fail =>
    rw [entropyWaits, hin]
    split <;> simp_all

/-- Two answers, whatever they are worth, leave nothing to wait for. -/
theorem entropyWaits_of_two_answers {y : EntropyAnswer} (hin : s.entropyIn = x :: y :: rest) (hx : x ≠ .silent)
    (hy : y ≠ .silent) : entropyWaits s = false := by
  simp [entropyWaits, hin, hx, hy]

/-- A listed block is the answer to the request. -/
theorem entropyRead_of_block (hin : s.entropyIn = .bytes b :: rest) (hb : b.length = 32) :
    entropyRead s = (some b, { s with entropyIn := rest, entropyRequests := s.entropyRequests + 1 }) := by
  rw [entropyRead_cons hin, block?_bytes hb]

/-- A listed answer that is no block counts as Fail. -/
theorem entropyRead_of_no_block (hin : s.entropyIn = x :: rest) (hx : block? x = none) :
    entropyRead s = (none, { s with entropyIn := rest, entropyRequests := s.entropyRequests + 1 }) := by
  rw [entropyRead_cons hin, hx]

/-- What a request leaves: the entropy port alone has changed, and one more request is counted. -/
theorem eq_of_entropyRead (h : entropyRead s = (o, s₁)) :
    ∃ rest, s₁ = { s with entropyIn := rest, entropyRequests := s.entropyRequests + 1 } := by
  obtain ⟨rest, n, hs, rfl⟩ := entropyRead_frame s
  exact ⟨rest, by rw [← hs, h]⟩

/-- Equal entropy ports answer a request equally and stay equal (log 4). -/
theorem entropyRead_congr (hin : s.entropyIn = t.entropyIn) (hreq : s.entropyRequests = t.entropyRequests)
    (h : entropyRead s = (o, s₁)) :
    ∃ t₁, entropyRead t = (o, t₁) ∧ s₁.entropyIn = t₁.entropyIn ∧ s₁.entropyRequests = t₁.entropyRequests := by
  rcases ht : t.entropyIn with _ | ⟨x, rest⟩
  · simp only [entropyRead, hin, ht, hreq, Prod.mk.injEq] at h ⊢
    obtain ⟨rfl, rfl⟩ := h
    exact ⟨_, ⟨rfl, rfl⟩, rfl, rfl⟩
  · rw [entropyRead_cons (hin.trans ht), Prod.mk.injEq] at h
    obtain ⟨rfl, rfl⟩ := h
    exact ⟨_, entropyRead_cons ht, rfl, by simp [hreq]⟩

theorem seedEntropy_of_first_fails (h₁ : entropyRead s = (none, s₁)) : seedEntropy s = seedEntropyFails s₁ := by
  simp [seedEntropy, h₁]

theorem seedEntropy_of_second_fails (h₁ : entropyRead s = (some a, s₁)) (h₂ : entropyRead s₁ = (none, s₂)) :
    seedEntropy s = seedEntropyFails s₂ := by
  simp [seedEntropy, h₁, h₂]

theorem seedEntropy_of_blocks (h₁ : entropyRead s = (some a, s₁)) (h₂ : entropyRead s₁ = (some b, s₂)) :
    seedEntropy s = respond .ok [] (construct (lanesOfBlock a) (lanesOfBlock b) s₂) := by
  simp [seedEntropy, h₁, h₂]

theorem exec_seedEntropy_of_answered (h : entropyWaits s = false) : exec .seedEntropy s = .next (seedEntropy s) := by
  simp [exec_seedEntropy, execSeedEntropy, h]

/-- A SEED_ENTROPY that leaves SEEDED = 1 was answered, and with two blocks. -/
theorem exec_seedEntropy_seeded {s' : State} (h : exec .seedEntropy s = .next s') (hs : s'.seeded = true) :
    entropyWaits s = false ∧ ∃ a b s₁ s₂, entropyRead s = (some a, s₁) ∧ entropyRead s₁ = (some b, s₂) ∧
      s' = respond .ok [] (construct (lanesOfBlock a) (lanesOfBlock b) s₂) := by
  rw [exec_seedEntropy, execSeedEntropy] at h
  split at h
  · cases h
  · rename_i hw
    cases h
    refine ⟨by simpa using hw, ?_⟩
    rcases h₁ : entropyRead s with ⟨_ | a, s₁⟩
    · rw [seedEntropy_of_first_fails h₁] at hs
      cases hs
    · rcases h₂ : entropyRead s₁ with ⟨_ | b, s₂⟩
      · rw [seedEntropy_of_second_fails h₁ h₂] at hs
        cases hs
      · exact ⟨a, b, s₁, s₂, rfl, h₂, seedEntropy_of_blocks h₁ h₂⟩

end Sys2Proof.Machine

/-! SUPPORT. The lanes of an entropy block as numbers (spec/20_memory.md R31). -/

namespace Sys2Proof.Machine

/-- `le64` as the sum of its bytes, each at its weight. -/
theorem toNat_le64_eq_sum (b : List Byte) (k : Nat) :
    (le64 b k).toNat = ((List.range 8).map fun j => (b.getD (k + j) 0).toNat * 2 ^ (8 * j)).sum := by
  rw [toNat_le64]
  simp only [List.range_succ, List.range_zero, List.nil_append, List.map_append, List.map_cons, List.map_nil,
    List.sum_append, List.sum_cons, List.sum_nil, Nat.add_zero]
  omega

theorem toNat_get_lanesOfBlock (b : List Byte) (i : Fin 4) :
    ((lanesOfBlock b).get i).toNat =
      ((List.range 8).map fun j => (b.getD (8 * i.val + j) 0).toNat * 2 ^ (8 * j)).sum := by
  rw [lanesOfBlock, Lanes.get_ofFn, toNat_le64_eq_sum]

end Sys2Proof.Machine

/-! PROOFS. The obligations about SEED and SEED_ENTROPY (spec/43_seeding.md). -/

namespace Sys2Proof.Proofs

open Sys2Proof.Machine

/-- Settles O15: construction sets the low bit of every increment, and nothing else writes INC. -/
theorem seedingForcesOddIncrements : Obligations.SeedingForcesOddIncrements :=
  fun _ _ _ h => ⟨exec_seeding_inc_odd h, exec_inc_of_not_seeding h⟩

/-- Settles O37: the writes of construction, with the halves of M written out, and the response. -/
theorem seedConstructsTheEngine : Obligations.SeedConstructsTheEngine :=
  fun st inc s => exec_seed st inc s

/-- Settles O38. -/
theorem seedRoundsIncrementsUpToOdd : Obligations.SeedRoundsIncrementsUpToOdd := by
  intro st inc s
  refine ⟨_, exec_seed st inc s, fun i => ?_⟩
  rw [respond_inc, get_construct_inc, toNat_or_one]

/-- Settles O39: both requests are answered with a block, and the blocks' lanes are the sums of their bytes. -/
theorem seedEntropyConstructsFromTwoBlocks : Obligations.SeedEntropyConstructsFromTwoBlocks := by
  intro s a b rest hin ha hb
  refine ⟨lanesOfBlock a, .ofFn fun k => (lanesOfBlock b).get k ||| 1#64, ?_, fun i => ⟨toNat_get_lanesOfBlock a i, ?_⟩⟩
  · rw [exec_seedEntropy_of_answered (entropyWaits_of_two_answers hin nofun nofun),
      seedEntropy_of_blocks (entropyRead_of_block hin ha) (entropyRead_of_block rfl hb)]
    rfl
  · rw [Lanes.get_ofFn, ← toNat_get_lanesOfBlock, BitVec.ofNat_toNat, BitVec.setWidth_eq]

/-- Settles O40: the request that is answered with no block is the last one made. -/
theorem entropyFailureIsReported : Obligations.EntropyFailureIsReported := by
  intro s x rest hx
  have hanswer : x ≠ .silent := by
    rintro rfl
    simp at hx
  have hnone := block?_eq_none hx
  constructor
  · intro hin
    rw [exec_seedEntropy_of_answered (entropyWaits_of_first_fails hin hanswer hnone),
      seedEntropy_of_first_fails (entropyRead_of_no_block hin hnone)]
    rfl
  · intro b hb hin
    rw [exec_seedEntropy_of_answered (entropyWaits_of_two_answers hin nofun hanswer),
      seedEntropy_of_second_fails (entropyRead_of_block hin hb) (entropyRead_of_no_block rfl hnone)]
    rfl

/-- Settles O41, by what the first request and, after a block, the second one is answered. -/
theorem seedEntropyCompletesWhenAnswered : Obligations.SeedEntropyCompletesWhenAnswered := by
  intro s hw
  refine ⟨_, exec_seedEntropy_of_answered hw, ?_⟩
  rcases h₁ : entropyRead s with ⟨_ | a, s₁⟩ <;> obtain ⟨rest₁, rfl⟩ := eq_of_entropyRead h₁
  · rw [seedEntropy_of_first_fails h₁]
    exact ⟨le_rfl, Nat.le_succ _, .inr ⟨rfl, rfl, rfl, rfl, rfl, rfl⟩⟩
  · rcases h₂ : entropyRead _ with ⟨_ | b, s₂⟩ <;> obtain ⟨rest₂, rfl⟩ := eq_of_entropyRead h₂
    · rw [seedEntropy_of_second_fails h₁ h₂]
      exact ⟨Nat.le_succ _, le_rfl, .inr ⟨rfl, rfl, rfl, rfl, rfl, rfl⟩⟩
    · rw [seedEntropy_of_blocks h₁ h₂]
      exact ⟨Nat.le_succ _, le_rfl, .inl ⟨rfl, rfl, rfl, u64_config_mul⟩⟩

/-- Settles O43: construction reads its operands alone, and equal entropy ports give both engines the same blocks. -/
theorem reseedingReplacesEverything : Obligations.ReseedingReplacesEverything := by
  intro i s t s' hi hin hreq h hs
  obtain rfl | ⟨st, inc, rfl⟩ := hi
  · obtain ⟨hw, a, b, s₁, s₂, h₁, h₂, rfl⟩ := exec_seedEntropy_seeded h hs
    obtain ⟨t₁, ht₁, hin₁, hreq₁⟩ := entropyRead_congr hin hreq h₁
    obtain ⟨t₂, ht₂, -, -⟩ := entropyRead_congr hin₁ hreq₁ h₂
    refine ⟨_, exec_seedEntropy_of_answered ((entropyWaits_congr hin).symm.trans hw), ?_⟩
    rw [seedEntropy_of_blocks ht₁ ht₂]
    exact ⟨rfl, rfl, rfl, rfl, rfl⟩
  · cases h
    exact ⟨_, exec_seed st inc t, rfl, rfl, rfl, rfl, rfl⟩

end Sys2Proof.Proofs

/-! SUPPORT. The one STEP every host procedure issues (spec/44_host_adapter.md R83), and each procedure after it: what
it goes on with when the STEP is answered OK, and how it stops when it is not (R84 to R87). -/

namespace Sys2Proof.Machine

variable {s s' : State} {resp : Response} {dest : List Byte} {off k c r : Nat}

/-- A STEP's response is the newest one. -/
theorem issueStep_of_exec (h : exec .step s = .next s') (hr : s'.responses = s.responses ++ [resp]) :
    issueStep s = .next (resp, s') := by
  rw [issueStep, deliver_encode, h, andThen_next, hr, List.getLastD_concat]

/-- On an engine that is not seeded the response is ERR_UNSEEDED, and nothing else has changed. -/
theorem issueStep_of_unseeded (hs : s.seeded = false) :
    issueStep s =
      .next (⟨.errUnseeded, []⟩, { s with responses := s.responses ++ [⟨.errUnseeded, []⟩] }) :=
  issueStep_of_exec (exec_step_of_unseeded hs) rfl

/-- A seeded engine answers with its four outputs and stays seeded. -/
theorem issueStep_of_seeded (hs : s.seeded = true) :
    ∃ s', exec .step s = .next s' ∧ s'.seeded = true ∧
      s'.responses = s.responses ++ [⟨.ok, words32 (stepOutputs s.state)⟩] ∧
      issueStep s = .next (⟨.ok, words32 (stepOutputs s.state)⟩, s') :=
  ⟨_, exec_step_of_seeded hs, hs, rfl, issueStep_of_exec (exec_step_of_seeded hs) rfl⟩

/-- A STEP never stops the machine, so its issuer always gets a response. -/
theorem exists_issueStep_eq_next (s : State) : ∃ resp s', issueStep s = .next (resp, s') := by
  cases hs : s.seeded with
  | false => exact ⟨_, _, issueStep_of_unseeded hs⟩
  | true =>
    obtain ⟨s', -, -, -, h⟩ := issueStep_of_seeded hs
    exact ⟨_, s', h⟩

section AfterOneStep

variable (h : issueStep s = .next (resp, s'))
include h

theorem nextU32_of_ok (hok : resp.status = .ok) : nextU32 s = .next (.ok (resp.data.getD 0 0), s') := by
  simp [nextU32, h, hok]

theorem nextU32_of_failed (hfail : resp.status ≠ .ok) : nextU32 s = .next (.failed resp.status, s') := by
  simp [nextU32, h, hfail]

theorem nextU64_of_ok (hok : resp.status = .ok) : nextU64 s = .next (.ok (u64pair resp.data).1, s') := by
  simp [nextU64, h, hok]

theorem nextU64_of_failed (hfail : resp.status ≠ .ok) : nextU64 s = .next (.failed resp.status, s') := by
  simp [nextU64, h, hfail]

theorem fillTail_of_ok (hr : r ≠ 0) (hok : resp.status = .ok) :
    fillTail off r dest s = .next ⟨.ok (), writeBytes dest off ((bytes16 resp.data).take r), s'⟩ := by
  simp [fillTail, hr, h, hok]

theorem fillTail_of_failed (hr : r ≠ 0) (hfail : resp.status ≠ .ok) :
    fillTail off r dest s = .next ⟨.failed resp.status, dest, s'⟩ := by
  simp [fillTail, hr, h, hfail]

theorem fillChunks_succ_of_ok (hok : resp.status = .ok) :
    fillChunks (k + 1) c r dest s =
      fillChunks k (c + 1) r (writeBytes dest (16 * c) (bytes16 resp.data)) s' := by
  simp [fillChunks, h, hok, Config.stepOutBytes]

theorem fillChunks_succ_of_failed (hfail : resp.status ≠ .ok) :
    fillChunks (k + 1) c r dest s = .next ⟨.failed resp.status, dest, s'⟩ := by
  simp [fillChunks, h, hfail]

end AfterOneStep

/-- With no byte left over there is no further STEP (R86). -/
@[simp] theorem fillTail_zero : fillTail off 0 dest s = .next ⟨.ok (), dest, s⟩ := rfl

@[simp] theorem fillChunks_zero : fillChunks 0 c r dest s = fillTail (16 * c) r dest s := rfl

theorem fillBytes_eq_fillChunks (dest : List Byte) (s : State) :
    fillBytes dest s = fillChunks (dest.length / 16) 0 (dest.length % 16) dest s := rfl

/-- A buffer that needs a STEP gets nothing from an engine that is not seeded: the first STEP fails, be it that of a
whole chunk or of the tail. -/
theorem fillChunks_of_unseeded (hs : s.seeded = false) (hne : k ≠ 0 ∨ r ≠ 0) :
    fillChunks k c r dest s =
      .next ⟨.failed .errUnseeded, dest, { s with responses := s.responses ++ [⟨.errUnseeded, []⟩] }⟩ := by
  cases k with
  | zero => exact fillTail_of_failed (issueStep_of_unseeded hs) (hne.resolve_left (· rfl)) nofun
  | succ k => exact fillChunks_succ_of_failed (issueStep_of_unseeded hs) nofun

end Sys2Proof.Machine

/-! SUPPORT. Writes into the buffer: what a write leaves below and up to its end, and that no procedure writes outside
(spec/44_host_adapter.md R86, R89). -/

namespace Sys2Proof.Machine

variable {s : State} {dest bs : List Byte} {off k c r : Nat}

/-- A write within the buffer keeps its length. -/
theorem length_writeBytes (h : off + bs.length ≤ dest.length) : (writeBytes dest off bs).length = dest.length := by
  simp only [writeBytes, List.length_append, List.length_take, List.length_drop]
  omega

/-- Up to the end of a write the buffer holds what stood before it, and then the bytes written. -/
theorem take_writeBytes (h : off ≤ dest.length) :
    (writeBytes dest off bs).take (off + bs.length) = dest.take off ++ bs :=
  List.take_left' (by simp [h])

/-- A write that reaches the buffer's end leaves nothing behind it. -/
theorem writeBytes_to_end (h : dest.length = off + bs.length) : writeBytes dest off bs = dest.take off ++ bs := by
  rw [writeBytes, List.drop_eq_nil_of_le h.le, List.append_nil]

theorem length_take_bytes16 (hr : r ≤ 16) (out : List Word32) : ((bytes16 out).take r).length = r := by
  rw [List.length_take, length_bytes16, Nat.min_eq_left hr]

theorem fillTail_keeps_length (hr : r < 16) (hlen : off + r ≤ dest.length) (s : State) :
    ∃ f, fillTail off r dest s = .next f ∧ f.dest.length = dest.length := by
  rcases eq_or_ne r 0 with rfl | hne
  · exact ⟨_, fillTail_zero, rfl⟩
  obtain ⟨resp, s', h⟩ := exists_issueStep_eq_next s
  by_cases hok : resp.status = .ok
  · exact ⟨_, fillTail_of_ok h hne hok, length_writeBytes (by rwa [length_take_bytes16 hr.le])⟩
  · exact ⟨_, fillTail_of_failed h hne hok, rfl⟩

/-- The loop ends with a buffer of the same length whatever the STEPs answer, as long as its chunks and the tail fit. -/
theorem fillChunks_keeps_length (hr : r < 16) (hlen : 16 * (c + k) + r ≤ dest.length) (s : State) :
    ∃ f, fillChunks k c r dest s = .next f ∧ f.dest.length = dest.length := by
  induction k generalizing c dest s with
  | zero => exact fillTail_keeps_length hr hlen s
  | succ k ih =>
    obtain ⟨resp, s', h⟩ := exists_issueStep_eq_next s
    by_cases hok : resp.status = .ok
    · have hwrite : (writeBytes dest (16 * c) (bytes16 resp.data)).length = dest.length :=
        length_writeBytes (by rw [length_bytes16]; omega)
      rw [fillChunks_succ_of_ok h hok, ← hwrite]
      exact ih (by omega) s'
    · exact ⟨_, fillChunks_succ_of_failed h hok, rfl⟩

end Sys2Proof.Machine

/-! SUPPORT. `fill_bytes` on a seeded engine as a run of STEPs (spec/44_host_adapter.md R86, R88). -/

namespace Sys2Proof.Machine

/-- n STEPs take s to s', with the responses rs. -/
structure StepsAnswer (n : Nat) (s s' : State) (rs : List Response) : Prop where
  run : deliverAll (List.replicate n (.command (encode .step))) s = .next s'
  responses : s'.responses = s.responses ++ rs

/-- The bytes of a list of STEP results, in order (R88). -/
def resultBytes (rs : List Response) : List Byte := rs.flatMap fun r => bytes16 r.data

variable {s s₁ s' : State} {resp : Response} {rs : List Response} {dest : List Byte} {off n k c r : Nat}

theorem StepsAnswer.zero (s : State) : StepsAnswer 0 s s [] := ⟨rfl, (List.append_nil _).symm⟩

/-- One STEP in front of n more. -/
theorem StepsAnswer.succ (h : exec .step s = .next s₁) (hr : s₁.responses = s.responses ++ [resp])
    (hrest : StepsAnswer n s₁ s' rs) : StepsAnswer (n + 1) s s' (resp :: rs) where
  run := by rw [List.replicate_succ, deliverAll_cons, deliver_encode, h, andThen_next, hrest.run]
  responses := by rw [hrest.responses, hr, List.append_assoc, List.singleton_append]

theorem resultBytes_nil : resultBytes [] = [] := rfl

theorem resultBytes_cons (resp : Response) (rs : List Response) :
    resultBytes (resp :: rs) = bytes16 resp.data ++ resultBytes rs := List.flatMap_cons

theorem take_bytes16_append (out : List Word32) (bs : List Byte) (n : Nat) :
    (bytes16 out ++ bs).take (16 + n) = bytes16 out ++ bs.take n :=
  List.take_length_add_append (l₁ := bytes16 out) n

/-- The tail takes one STEP for r > 0 bytes and none for 0, and writes the buffer to its end. -/
theorem fillTail_of_seeded (hs : s.seeded = true) (hr : r < 16) (hlen : dest.length = off + r) :
    ∃ s' rs, StepsAnswer ((r + 15) / 16) s s' rs ∧
      fillTail off r dest s = .next ⟨.ok (), dest.take off ++ (resultBytes rs).take r, s'⟩ := by
  rcases Nat.eq_zero_or_pos r with rfl | hpos
  · refine ⟨s, [], .zero s, ?_⟩
    rw [fillTail_zero, resultBytes_nil, List.take_nil, List.append_nil, List.take_of_length_le (by omega)]
  · have hone : (r + 15) / 16 = 1 := by omega
    obtain ⟨s', hexec, -, hresp, h⟩ := issueStep_of_seeded hs
    refine ⟨s', _, by rw [hone]; exact .succ hexec hresp (.zero s'), ?_⟩
    have hend : dest.length = off + ((bytes16 (words32 (stepOutputs s.state))).take r).length := by
      rw [length_take_bytes16 hr.le, hlen]
    rw [fillTail_of_ok h hpos.ne' rfl, writeBytes_to_end hend, resultBytes_cons, resultBytes_nil, List.append_nil]

/-- The loop from chunk c on leaves the bytes below chunk c and fills the rest of the buffer with the STEPs' results,
with one STEP for each 16 bytes or part of them. -/
theorem fillChunks_of_seeded (hs : s.seeded = true) (hr : r < 16) (hlen : dest.length = 16 * (c + k) + r) :
    ∃ s' rs, StepsAnswer (k + (r + 15) / 16) s s' rs ∧
      fillChunks k c r dest s =
        .next ⟨.ok (), dest.take (16 * c) ++ (resultBytes rs).take (16 * k + r), s'⟩ := by
  induction k generalizing c dest s with
  | zero => simpa using fillTail_of_seeded hs hr hlen
  | succ k ih =>
    obtain ⟨s₁, hexec, hs₁, hresp, h⟩ := issueStep_of_seeded hs
    generalize words32 (stepOutputs s.state) = out at hresp h
    have hroom : 16 * c ≤ dest.length := by omega
    have hkept : (writeBytes dest (16 * c) (bytes16 out)).length = dest.length :=
      length_writeBytes (by rw [length_bytes16]; omega)
    have hbelow : (writeBytes dest (16 * c) (bytes16 out)).take (16 * (c + 1)) = dest.take (16 * c) ++ bytes16 out :=
      take_writeBytes (bs := bytes16 out) hroom
    have hsteps : k + 1 + (r + 15) / 16 = k + (r + 15) / 16 + 1 := by omega
    have hbytes : 16 * (k + 1) + r = 16 + (16 * k + r) := by omega
    obtain ⟨s', rs, hrest, hfill⟩ := ih (c := c + 1) hs₁ (hkept.trans (by omega))
    refine ⟨s', _, hsteps ▸ StepsAnswer.succ hexec hresp hrest, ?_⟩
    rw [fillChunks_succ_of_ok h rfl, hfill, hbelow, hbytes, resultBytes_cons, take_bytes16_append, List.append_assoc]

end Sys2Proof.Machine

/-! PROOFS. The obligations about the host's procedures (spec/44_host_adapter.md). -/

namespace Sys2Proof.Proofs

open Sys2Proof.Machine

/-- Settles O45: the response's first word is the output of lane 0. -/
theorem nextU32ReturnsLaneZero : Obligations.NextU32ReturnsLaneZero := by
  intro s hs
  obtain ⟨s', hexec, -, -, h⟩ := issueStep_of_seeded hs
  exact ⟨s', hexec, nextU32_of_ok h rfl⟩

/-- Settles O46: the response's first two words, the first one low. -/
theorem nextU64ReturnsLanesOneAndZero : Obligations.NextU64ReturnsLanesOneAndZero := by
  intro s hs
  obtain ⟨s', hexec, -, -, h⟩ := issueStep_of_seeded hs
  exact ⟨s', _, hexec, nextU64_of_ok h rfl, (toNat_u64 _ _).trans (Nat.add_comm _ _)⟩

/-- Settles O47: the loop from chunk 0 on, with the buffer's length divided by 16; `try_fill_bytes` is the same loop. -/
theorem fillBytesIsExact : Obligations.FillBytesIsExact := by
  intro s dest hs
  have hlen : dest.length = 16 * (0 + dest.length / 16) + dest.length % 16 := by omega
  have hsteps : (dest.length + 15) / 16 = dest.length / 16 + (dest.length % 16 + 15) / 16 := by omega
  obtain ⟨s', rs, ⟨hrun, hresp⟩, hfill⟩ := fillChunks_of_seeded hs (Nat.mod_lt _ (by decide)) hlen
  rw [Nat.mul_zero, List.take_zero, List.nil_append, Nat.div_add_mod, ← fillBytes_eq_fillChunks] at hfill
  exact ⟨s', rs, hsteps ▸ hrun, hresp, hfill, hfill⟩

/-- Settles O48: the chunks and the tail fit the buffer exactly, and an empty buffer has neither. -/
theorem fillBytesStaysInBounds : Obligations.FillBytesStaysInBounds := by
  intro s dest
  have hfits : 16 * (0 + dest.length / 16) + dest.length % 16 ≤ dest.length := by omega
  obtain ⟨f, hf, hlen⟩ := fillChunks_keeps_length (Nat.mod_lt _ (by decide)) hfits s
  exact ⟨⟨f, hf, hf, hlen⟩, rfl⟩

/-- Settles O49: the first STEP is answered ERR_UNSEEDED, and a buffer that is not empty needs one. -/
theorem adapterReportsTheFailingStatus : Obligations.AdapterReportsTheFailingStatus := by
  intro s dest hs
  have h := issueStep_of_unseeded hs
  refine ⟨_, rfl, nextU32_of_failed h nofun, nextU64_of_failed h nofun, fun hne => ?_⟩
  have hpos := List.length_pos_iff.mpr hne
  have hfill := fillChunks_of_unseeded (c := 0) (dest := dest) hs
    (show dest.length / 16 ≠ 0 ∨ dest.length % 16 ≠ 0 by omega)
  exact ⟨hfill, hfill⟩

end Sys2Proof.Proofs

/-! SUPPORT. The commands that are answered with an error, and all they do besides (spec/60_exceptions.md R93, R96). -/

namespace Sys2Proof.Machine

variable {i : Instr} {s s' : State} {r : Response}

/-- One response is the newest. -/
theorem newest_response_unique {l rs : List Response} {a : Response} (hr : l = rs ++ [r]) (ha : l = rs ++ [a]) :
    r = a :=
  List.singleton_inj.mp (List.append_cancel_left (hr.symm.trans ha))

/-- A performed command that is not answered OK is a STEP on an engine that is not seeded, which only responds, or a
failed SEED_ENTROPY, which also clears SEEDED and leaves the entropy port as its requests did. -/
theorem exec_error_cases (h : exec i s = .next s') (hr : s'.responses = s.responses ++ [r]) (hfail : r.status ≠ .ok) :
    (r = ⟨.errUnseeded, []⟩ ∧ s' = respondError .errUnseeded s) ∨
    (r = ⟨.errEntropy, []⟩ ∧ ∃ rest n, s' = seedEntropyFails { s with entropyIn := rest, entropyRequests := n }) := by
  have hnotOk : ∀ d, s'.responses ≠ s.responses ++ [⟨.ok, d⟩] :=
    fun _ hok => hfail (congrArg Response.status (newest_response_unique hr hok))
  obtain ⟨d, n, -, -, rfl⟩ | ⟨st, inc, -, rfl⟩ | ⟨rest, n, -, rfl⟩ | ⟨a, b, rest, n, -, rfl⟩ | ⟨-, -, rfl⟩ |
    ⟨-, -, rfl⟩ := exec_cases h
  · exact absurd rfl (hnotOk d)
  · exact absurd rfl (hnotOk [])
  · exact .inr ⟨newest_response_unique hr rfl, rest, n, rfl⟩
  · exact absurd rfl (hnotOk [])
  · exact .inl ⟨newest_response_unique hr rfl, rfl⟩
  · exact absurd rfl (hnotOk (words32 (stepOutputs s.state)))

end Sys2Proof.Machine

/-! PROOFS. The obligations about errors and statuses (spec/60_exceptions.md). -/

namespace Sys2Proof.Proofs

open Sys2Proof.Machine

/-- Settles O18: an error is a rejected transaction, a STEP on an engine that is not seeded, or a failed SEED_ENTROPY,
and only the last one does more than respond. -/
theorem errorsArePrecise : Obligations.ErrorsArePrecise := by
  intro s s' t rest r hp h hr hfail
  cases hd : decode t with
  | error why =>
    cases (step_of_illegal hp hd).symm.trans h
    obtain rfl := newest_response_unique hr rfl
    exact ⟨rfl, rfl, rfl, rfl, rfl, rfl, nofun, fun _ => rfl⟩
  | ok i =>
    obtain ⟨rfl, rfl⟩ | ⟨rfl, _, _, rfl⟩ := exec_error_cases ((step_of_command hp hd).symm.trans h) hr hfail
    · exact ⟨rfl, rfl, rfl, rfl, rfl, rfl, nofun, fun _ => rfl⟩
    · exact ⟨rfl, rfl, rfl, rfl, rfl, rfl, fun _ => rfl, absurd rfl⟩

/-- Settles O19, by the ways each command can end. -/
theorem statusesOfEachCommand : Obligations.StatusesOfEachCommand := by
  intro i s s' r h hr
  cases i with
  | wmul | rotr | seed =>
    cases h
    obtain rfl := newest_response_unique hr rfl
    rfl
  | seedEntropy =>
    obtain ⟨_, _, rfl⟩ | ⟨_, _, _, _, rfl⟩ := exec_seedEntropy_cases h <;> obtain rfl := newest_response_unique hr rfl
    · exact .inr ⟨rfl, rfl⟩
    · exact .inl ⟨rfl, rfl⟩
  | step =>
    obtain ⟨hs, rfl⟩ | ⟨hs, rfl⟩ := exec_step_cases h <;> obtain rfl := newest_response_unique hr rfl
    · exact .inr ⟨hs, rfl⟩
    · exact .inl ⟨hs, rfl⟩

/-- Settles O20, by evaluation of each status word. -/
theorem statusCodesAsListed : Obligations.StatusCodesAsListed :=
  ⟨rfl, rfl, rfl, rfl⟩

/-- Settles O21: the word fails the check of the reserved bits, and what is rejected is answered whatever SEEDED is. -/
theorem decodeComesBeforeTheSeededCheck : Obligations.DecodeComesBeforeTheSeededCheck :=
  fun _ _ hp => step_of_illegal hp (decode_of_not_rsvdZero rfl)

end Sys2Proof.Proofs

/-! SUPPORT. When a command and a step stop (spec/70_reset_and_hazards.md R111), and what a reset does, between commands
or in the middle of one (R106). -/

namespace Sys2Proof.Machine

variable {s : State} {t : Transaction} {rest : List PortEvent}

/-- SEED_ENTROPY waits when its first request is never answered, or is answered with a block and the second one never
is. -/
theorem entropyWaits_iff :
    entropyWaits s = true ↔
      (∃ rest, s.entropyIn = .silent :: rest) ∨
        ∃ b rest, b.length = 32 ∧ s.entropyIn = .bytes b :: .silent :: rest := by
  unfold entropyWaits
  split
  next answers hin => simp [hin]
  next x answers hx hin =>
    simp only [hin, Option.isSome_iff_exists, block?_eq_some]
    constructor
    · rintro ⟨b, rfl, hb⟩
      exact .inr ⟨b, answers, hb, rfl⟩
    · rintro (⟨_, h⟩ | ⟨b, _, hb, h⟩) <;> cases h
      · exact (hx rfl).elim
      · exact ⟨b, rfl, hb⟩
  next hfirst hsecond =>
    refine iff_of_false Bool.false_ne_true ?_
    rintro (⟨answers, hin⟩ | ⟨b, answers, -, hin⟩)
    · exact hfirst _ hin
    · exact hsecond _ _ hin

theorem exec_seedEntropy_of_waiting (h : entropyWaits s = true) : exec .seedEntropy s = .fault .entropySilent := by
  simp [exec_seedEntropy, execSeedEntropy, h]

theorem exec_seedEntropy_eq_fault_iff : exec .seedEntropy s = .fault .entropySilent ↔ entropyWaits s = true := by
  refine ⟨fun h => ?_, exec_seedEntropy_of_waiting⟩
  by_contra hw
  rw [exec_seedEntropy_of_answered (by simpa using hw)] at h
  cases h

/-- A command goes on, unless it is a SEED_ENTROPY that waits. -/
theorem exists_exec_eq_next {i : Instr} (h : i = .seedEntropy → entropyWaits s = false) :
    ∃ s', exec i s = .next s' := by
  cases i with
  | wmul | rotr | seed => exact ⟨_, rfl⟩
  | seedEntropy => exact ⟨_, exec_seedEntropy_of_answered (h rfl)⟩
  | step =>
    cases hs : s.seeded with
    | false => exact ⟨_, exec_step_of_unseeded hs⟩
    | true => exact ⟨_, exec_step_of_seeded hs⟩

theorem step_of_reset (hp : s.pending = .reset :: rest) : step s = .next (applyReset { s with pending := rest }) := by
  rw [step, takeEvent_cons hp]

theorem step_of_resetDuring {n : Nat} (hp : s.pending = .resetDuring t n :: rest) :
    step s = .next (interruptByReset t n { s with pending := rest }) := by
  rw [step, takeEvent_cons hp]

/-- Only SEED_ENTROPY makes entropy requests (spec/43_seeding.md R76). -/
theorem requestLimit_of_ne_seedEntropy (ht : t ≠ encode .seedEntropy) : requestLimit t = 0 := by
  unfold requestLimit
  split
  next hd => exact absurd (eq_encode_of_decode hd) ht
  next => rfl

end Sys2Proof.Machine

/-! SUPPORT. The one situation in which a step stops. -/

namespace Sys2Proof.Safety

open Sys2Proof.Machine

variable {s : State}

theorem step_of_stuckOnEntropy (h : stuckOnEntropy s) : step s = .fault .entropySilent := by
  obtain ⟨t, rest, hp, hd, hw⟩ := h
  rw [step_of_command hp hd]
  exact exec_seedEntropy_of_waiting hw

/-- Every other step goes on, whatever the next event is. -/
theorem step_goesOn (h : ¬ stuckOnEntropy s) : goesOn (step s) := by
  rcases hp : s.pending with _ | ⟨e, rest⟩
  · exact ⟨_, step_of_pending_nil hp⟩
  · cases e with
    | command t =>
      rcases hd : decode t with why | i
      · exact ⟨_, step_of_illegal hp hd⟩
      · rw [step_of_command hp hd]
        refine exists_exec_eq_next ?_
        rintro rfl
        exact Bool.eq_false_iff.mpr fun hw => h ⟨t, rest, hp, hd, hw⟩
    | reset => exact ⟨_, step_of_reset hp⟩
    | resetDuring t n => exact ⟨_, step_of_resetDuring hp⟩

end Sys2Proof.Safety

/-! PROOFS. The obligations about reset and about the source that never answers (spec/70_reset_and_hazards.md). -/

namespace Sys2Proof.Proofs

open Sys2Proof.Machine Sys2Proof.Safety

/-- Settles O9: a stuck step is a fault, so it does not go on; every other step does, event by event. -/
theorem stepStopsOnlyOnASilentSource : Obligations.StepStopsOnlyOnASilentSource := by
  refine fun s => ⟨⟨?_, step_goesOn⟩, step_of_stuckOnEntropy⟩
  rintro ⟨s', hnext⟩ hstuck
  cases hnext.symm.trans (step_of_stuckOnEntropy hstuck)

/-- Settles O11. -/
theorem resetClearsSeededWithoutResponse : Obligations.ResetClearsSeededWithoutResponse :=
  fun _ _ hp => ⟨_, step_of_reset hp, rfl, rfl, rfl, rfl, rfl⟩

/-- Settles O12: what the interruption uses up is the requests made, capped at what the command can make. -/
theorem interruptedCommandHasNoEffect : Obligations.InterruptedCommandHasNoEffect := by
  intro s r t n rest hp hr
  cases (step_of_reset rfl).symm.trans hr
  refine ⟨min n (requestLimit t), (Nat.min_le_right ..).trans (requestLimit_le_two t), Nat.min_le_left .., ?_, ?_⟩
  · intro ht
    rw [requestLimit_of_ne_seedEntropy ht, Nat.min_zero]
  · rw [step_of_resetDuring hp, interruptByReset_eq]

/-- Settles O42: the command is the fault exactly when it waits, and waiting is one of the two silences. -/
theorem seedEntropyStuckOnASilentSource : Obligations.SeedEntropyStuckOnASilentSource :=
  fun _ => exec_seedEntropy_eq_fault_iff.trans entropyWaits_iff

end Sys2Proof.Proofs
